-- ==== Sys2Proof/Word.lean ====
section
/-! DEFINITION. The words and index types of the part: bytes, samples, counts, slots, and the numbers of parties, keys,
ports and the rest. -/

namespace Sys2Proof

/-- One byte of a control port frame (R180, R198). -/
abbrev Byte := BitVec 8

/-- A 24-bit two's-complement sample (R50). -/
abbrev Sample := BitVec 24

/-- A count modulo 2^32 (R114, and the echo mark of R12). -/
abbrev Count := BitVec 32

/-- One 32-bit TDM slot: 24 audio bits, then A7 to A0 (R192). -/
abbrev TdmSlot := BitVec 32

/-- A party index, 0 to 23 (R1). -/
abbrev PartyIx := Fin 24

/-- A telephone line L0 to L15 (R1). -/
abbrev LineIx := Fin 16

/-- A codec link C0 to C7 (R1). -/
abbrev LinkIx := Fin 8

/-- A programme, and the air delay of that programme: 0 stands for 1, 1 for 2. -/
abbrev Programme := Fin 2

/-- A studio source S0 to S15 (R50). -/
abbrev StudioIx := Fin 16

/-- A bus code: P1, P2, SCREEN, PRIV1, PRIV2 (R53). -/
abbrev BusIx := Fin 5

/-- A talkback key K0 to K3 (R92). -/
abbrev KeyIx := Fin 4

/-- A tone player TP0 to TP3 (R136). -/
abbrev PlayerIx := Fin 4

/-- A logic cell LC0 to LC7 (R169). -/
abbrev CellIx := Fin 8

/-- A GPI or GPO pin (R166, R175). -/
abbrev PinIx := Fin 8

/-- A control port CP0 to CP2 (R180). -/
abbrev PortIx := Fin 3

/-- A meter point (R152). -/
abbrev PointIx := Fin 71

/-- A level supervisor (R160). -/
abbrev SupIx := Fin 8

/-- A signal number (R167). -/
abbrev SignalIx := Fin 46

/-- A monitor code (R74). -/
abbrev MonitorIx := Fin 31

/-- The index of a frame in its period (Conventions). -/
abbrev FrameIx := Fin 32

/-- A subset of n numbered things: item i is in the set when entry i is true. -/
abbrev Mask (n : Nat) := Vector Bool n

end Sys2Proof
end

