-- ==== Sys2Proof/Syntax.lean ====
section
/-! DEFINITION. The commands of the part: one constructor for each row of spec/opcode_table.json. A control port command
carries the port it came on, the tag and the payload bytes of its frame (R181); an event of a pin or of the clock carries
what the pin showed; an arrival handed from one block to another carries what it concerns. -/

namespace Sys2Proof

/-- The two role straps of one port, true for high (R185). -/
structure Straps where
  high : Bool
  low : Bool
  deriving DecidableEq, Repr

/-- The input slots of one frame on the three audio ports (R50, R192). -/
structure FrameIn where
  tel : Vector TdmSlot 16
  cdc : Vector TdmSlot 8
  stu : Vector TdmSlot 16
  deriving DecidableEq, Repr

/-- The auxiliary bits A7 to A0 of the TEL and CDC input slots in the last frame of a period (R36, R192). -/
structure AuxIn where
  tel : Vector Byte 16
  cdc : Vector Byte 8
  deriving DecidableEq, Repr

/-- A command: one row of spec/opcode_table.json with its operands. -/
inductive Instr where
  /-- RESET, R2: Assertion of the RESET pin puts every block's state at its reset values and holds the ports idle. -/
  | reset
  /-- RESET_RELEASE, R185: Release of RESET samples the role straps of each port and starts framing at frame 0 of period 0. -/
  | resetRelease (straps : Vector Straps 3)
  /-- FRAME_ANSWER, R181: A transaction whose bytes do not form a whole frame is answered FRAME in the port's reply slot and does nothing else. -/
  | frameAnswer (port : PortIx) (bytes : List Byte)
  /-- UNKNOWN_COMMAND, R182: A whole frame whose command number names no command is answered UNKNOWN. -/
  | unknownCommand (port : PortIx) (number tag : Byte) (payload : List Byte)
  /-- NOP, R182: A whole NOP frame leaves the reply slot and all state as they stand. -/
  | nop (port : PortIx) (tag : Byte) (payload : List Byte)
  /-- READ_STATUS, R187: Returns the family code, revision, own port number, roles of the three ports and the lock state. -/
  | readStatus (port : PortIx) (tag : Byte) (payload : List Byte)
  /-- READ_EVENTS, R190: Reports the port's event flags and mask, clears the reported flags and re-forms ATTN. -/
  | readEvents (port : PortIx) (tag : Byte) (payload : List Byte)
  /-- SET_EVENT_MASK, R189: Stores the sending port's event mask and re-forms its ATTN line. -/
  | setEventMask (port : PortIx) (tag : Byte) (payload : List Byte)
  /-- READ_PARTY, R32: Returns one party record with its in-service key and filtered supervision flags. -/
  | readParty (port : PortIx) (tag : Byte) (payload : List Byte)
  /-- READ_TABLE, R33: Returns state, programme and change count of all 24 parties taken at one arrival. -/
  | readTable (port : PortIx) (tag : Byte) (payload : List Byte)
  /-- SET_PARTY, R28: Checks and stores the selected settings of one party, with adjustments, PARTY event and hand-off of a fold-back enable change. -/
  | setParty (port : PortIx) (tag : Byte) (payload : List Byte)
  /-- ANSWER, R19: Moves a phone from RINGING to SCREEN after the check order of R15, starting answer supervision and raising SEIZE. -/
  | answer (port : PortIx) (tag : Byte) (payload : List Byte)
  /-- SCREEN, R20: Moves a phone from HOLD, READY or PRIVATE to SCREEN after the check order of R15. -/
  | screen (port : PortIx) (tag : Byte) (payload : List Byte)
  /-- HOLD, R21: Moves a phone to HOLD, or a codec from PRIVATE or AIR to STANDBY, recording an echo mark when leaving AIR. -/
  | hold (port : PortIx) (tag : Byte) (payload : List Byte)
  /-- READY, R22: Moves a phone from SCREEN or HOLD to READY and sets its programme to k. -/
  | ready (port : PortIx) (tag : Byte) (payload : List Byte)
  /-- PRIVATE, R23: Moves a party into PRIVATE on programme k under the role rights and studio restriction. -/
  | privateTalk (port : PortIx) (tag : Byte) (payload : List Byte)
  /-- TAKE, R24: Moves a party to AIR on programme k under the role rights and studio restriction. -/
  | take (port : PortIx) (tag : Byte) (payload : List Byte)
  /-- DROP, R25: Moves a connected phone to CLEARING as a teardown and starts the clearing guard. -/
  | drop (port : PortIx) (tag : Byte) (payload : List Byte)
  /-- SET_SEND, R55: Checks and stores the gain and return-excluded flag of one studio send. -/
  | setSend (port : PortIx) (tag : Byte) (payload : List Byte)
  /-- SET_MONITOR, R74: Stores the monitor selection code. -/
  | setMonitor (port : PortIx) (tag : Byte) (payload : List Byte)
  /-- KEY, R94: Sets or clears the talkback latches of one key, re-forming its active flag. -/
  | key (port : PortIx) (tag : Byte) (payload : List Byte)
  /-- SET_KEY, R104: Checks and stores the selected settings of one key, sending releases and requests for changes of reach. -/
  | setKey (port : PortIx) (tag : Byte) (payload : List Byte)
  /-- READ_KEYS, R106: Returns the settings, latches, trigger output, active flag and serving count of the four keys. -/
  | readKeys (port : PortIx) (tag : Byte) (payload : List Byte)
  /-- REQUEST, R98: A key's request reaches one party's fold-back context and is entered in the list, with selection or pre-emption. -/
  | request (key : KeyIx) (party : PartyIx)
  /-- RELEASE, R99: A key's release reaches one party's context, removing the key from the list and reselecting if it was in service. -/
  | release (key : KeyIx) (party : PartyIx)
  /-- RECONSIDERATION, R100: A change of a listed key's priority reaches one party, which passes the service to a strictly higher-priority key. -/
  | reconsideration (key : KeyIx) (party : PartyIx)
  /-- KEY_TRIGGER, R95: A delivered change of a key's trigger cell output is recorded and the key's active flag re-formed. -/
  | keyTrigger (key : KeyIx) (cell : CellIx) (out : Bool)
  /-- WRITE_STEPS, R138: Writes a run of tone memory step entries when no player is busy. -/
  | writeSteps (port : PortIx) (tag : Byte) (payload : List Byte)
  /-- WRITE_PITCHES, R138: Writes a run of pitch increments when no player is busy. -/
  | writePitches (port : PortIx) (tag : Byte) (payload : List Byte)
  /-- READ_TONE_MEMORY, R139: Returns a run of step or pitch entries. -/
  | readToneMemory (port : PortIx) (tag : Byte) (payload : List Byte)
  /-- SET_PLAYER, R141: Checks and stores the selected settings of one tone player. -/
  | setPlayer (port : PortIx) (tag : Byte) (payload : List Byte)
  /-- START, R143: Starts a play from IDLE, latching its settings, or cancels a stop. -/
  | start (port : PortIx) (tag : Byte) (payload : List Byte)
  /-- STOP, R144: Makes a playing player STOPPING so that it ends after the step in progress. -/
  | stop (port : PortIx) (tag : Byte) (payload : List Byte)
  /-- ABORT, R145: Requests an abort that ends the play with a one-period fade. -/
  | abort (port : PortIx) (tag : Byte) (payload : List Byte)
  /-- SET_TONE_ROUTE, R148: Checks and stores the player set and tone gain of one connected state's route. -/
  | setToneRoute (port : PortIx) (tag : Byte) (payload : List Byte)
  /-- READ_PLAYERS, R149: Returns the settings, state and play context of the four players. -/
  | readPlayers (port : PortIx) (tag : Byte) (payload : List Byte)
  /-- PLAYER_TRIGGER, R146: A delivered change of a player's trigger cell output is taken as a START on a rise, or as a STOP on a fall in CONTINUOUS mode. -/
  | playerTrigger (player : PlayerIx) (cell : CellIx) (out : Bool)
  /-- SET_DELAY, R131: Checks and stores the selected settings of one air delay, with adjustments. -/
  | setDelay (port : PortIx) (tag : Byte) (payload : List Byte)
  /-- DUMP, R122: Requests a dump of one delay, accepted, merged, made pending or refused by the delay's state. -/
  | dump (port : PortIx) (tag : Byte) (payload : List Byte)
  /-- READ_DELAY, R132: Returns the memory size mode and the entries of both delays. -/
  | readDelay (port : PortIx) (tag : Byte) (payload : List Byte)
  /-- SET_MEMORY_SIZE, R113: Changes the memory size mode when both delays are in BYPASS, lowering targets above the new maximum. -/
  | setMemorySize (port : PortIx) (tag : Byte) (payload : List Byte)
  /-- DELAY_TRIGGER, R126: A delivered rise of a delay's trigger cell output is taken as a dump request without reply. -/
  | delayTrigger (delay : Programme) (cell : CellIx) (out : Bool)
  /-- SET_METERING, R156: Checks and stores the metering mode, window exponent and repeat. -/
  | setMetering (port : PortIx) (tag : Byte) (payload : List Byte)
  /-- READ_METERS, R164: Returns the metering context and the code, valid and clip flags of the 71 points. -/
  | readMeters (port : PortIx) (tag : Byte) (payload : List Byte)
  /-- SET_SUPERVISOR, R162: Checks, stores and brings into range one supervisor's settings, restarting it when they change. -/
  | setSupervisor (port : PortIx) (tag : Byte) (payload : List Byte)
  /-- READ_SUPERVISORS, R165: Returns the settings, state and run counter of the eight supervisors. -/
  | readSupervisors (port : PortIx) (tag : Byte) (payload : List Byte)
  /-- CLEAR_CLIPS, R159: Clears the clip flags of a run of meter points. -/
  | clearClips (port : PortIx) (tag : Byte) (payload : List Byte)
  /-- SET_CELL, R176: Checks and stores the selected configuration of one logic cell and sets its restart pending. -/
  | setCell (port : PortIx) (tag : Byte) (payload : List Byte)
  /-- SET_GPO, R177: Stores the selection and polarity of one GPO pin and drives the pin from them. -/
  | setGpo (port : PortIx) (tag : Byte) (payload : List Byte)
  /-- READ_LOGIC, R178: Returns the GPI, cell, GPO and signal state of the logic cells. -/
  | readLogic (port : PortIx) (tag : Byte) (payload : List Byte)
  /-- SET_LINE_TIMING, R41: Stores the drop time shared by all lines. -/
  | setLineTiming (port : PortIx) (tag : Byte) (payload : List Byte)
  /-- SET_CLOCK, R196: Stores the settle exponent of the Clock Unit. -/
  | setClock (port : PortIx) (tag : Byte) (payload : List Byte)
  /-- SUPERVISION_SAMPLE, R36: At the end of each period LS samples the RING, LOOP, LINK and VALID bits of every party into their filter histories. -/
  | supervisionSample (aux : AuxIn)
  /-- PARTY_EVALUATION, R37: LS evaluates one party against its state, advances its running counts and hands any due supervision cause to PT. -/
  | partyEvaluation (party : PartyIx)
  /-- RING, R37: A ring cause arriving at PT moves an IDLE phone to RINGING, raising PARTY and RING. -/
  | ring (party : PartyIx)
  /-- RING_ABANDON, R38: When the ring count reaches 9000 the ring abandon cause moves a RINGING phone to IDLE. -/
  | ringAbandon (party : PartyIx)
  /-- ANSWER_FAILURE, R39: When the answer count reaches 3000 without loop, the answer failure cause moves the phone to CLEARING with HANGUP. -/
  | answerFailure (party : PartyIx)
  /-- LOOP_DROP, R40: When the drop count reaches the drop time, the loop drop cause moves the phone to CLEARING with HANGUP. -/
  | loopDrop (party : PartyIx)
  /-- CLEARING_COMPLETE, R42: When the clearing count reaches 750, the clearing complete cause moves the phone from CLEARING to IDLE. -/
  | clearingComplete (party : PartyIx)
  /-- LINK_UP, R44: A link up cause moves an OFFLINE codec to STANDBY, raising PARTY and LINK. -/
  | linkUp (party : PartyIx)
  /-- LINK_DOWN, R44: A link down cause moves a connected codec to OFFLINE as a teardown, raising PARTY and LINK. -/
  | linkDown (party : PartyIx)
  /-- ME_PERIOD_START, R77: At each period start ME takes its control state and starts the coefficient ramps, key changes and feed transitions that the differences call for. -/
  | mePeriodStart
  /-- FRAME_COMPUTATION, R62: In every frame ME forms the bus sums, returns, MONITOR and meter samples from the frame's inputs. -/
  | frameComputation (slots : FrameIn)
  /-- DELAY_WRITE_READ, R115: In every frame each delay writes its programme bus sample and reads one sample as a normal, insert or skip frame. -/
  | delayWriteRead (delay : Programme)
  /-- DELAY_PERIOD_START, R117: At each period start a delay sets its quiet flag, makes its dump progress, takes its state from D and T and tests the echo guards. -/
  | delayPeriodStart (delay : Programme)
  /-- DUMP_JUMP, R124: At the end of DUMP_OUT the read count jumps forward by min(n·S·32, D) and the delay enters DUMP_IN. -/
  | dumpJump (delay : Programme)
  /-- PLAYER_PERIOD_START, R142: At each period start a busy player begins a pending first step or counts down the step in progress, and takes a requested abort into its fade. -/
  | playerPeriodStart (player : PlayerIx)
  /-- STEP_COMPLETE, R142: When remaining reaches 0 the step completes and the player goes IDLE with TONE or begins the next step. -/
  | stepComplete (player : PlayerIx)
  /-- ABORT_FADE_END, R145: At the event ending an abort's fade period the player goes IDLE and raises TONE. -/
  | abortFadeEnd (player : PlayerIx)
  /-- METER_PERIOD_START, R155: At each period start LM counts down its measurement or wait and takes its phase from its settings. -/
  | meterPeriodStart
  /-- MEASUREMENT_COMPLETE, R154: When a window's periods left reach 0 every point's code and valid flag are set from the mean and the measurement count advances. -/
  | measurementComplete
  /-- WAITING_END, R155: When a PERIODIC wait's periods left reach 1, LM begins a new measurement. -/
  | waitingEnd
  /-- LC_PERIOD_END, R166: At the end of each period LC samples and filters the GPI pins, raises GPI on a change and evaluates every cell. -/
  | lcPeriodEnd (pins : Vector Bool 8)
  /-- GPO_DELIVERY, R175: A delivered change of a selected cell's output moves the GPO pin's active value and level. -/
  | gpoDelivery (pin : PinIx) (cell : CellIx) (out : Bool)
  /-- JUDGEMENT, R194: At the end of each period CU counts the WCLK edges, judges the reference valid or lost and moves its lock state. -/
  | judgement (edges : Nat)
  /-- REALIGN, R194: When the settle count runs out with a valid reference CU enters LOCKED, raises CLOCK and realigns the frames to WCLK. -/
  | realign (edges : Nat)
  deriving DecidableEq, Repr

end Sys2Proof
end

