-- ==== Sys2Proof/Decode.lean ====
section
/-! DEFINITION. Commands from words. No row of spec/opcode_table.json has bits, so no word spells a command (log 3). The bytes
of a control port transaction do (R180 to R182, R198), and an encoder gives the frame of a command. -/

namespace Sys2Proof

/-- The command a word spells by the table's bits: the table gives no row any bits, so there is none (log 3). -/
def decodeTableWord (_nbits _w : Nat) : Option Instr := none

/-! ## Transactions (R180) -/

/-- Eight bits as a byte, most significant bit first (R180). -/
def byteOfBits (bits : List Bool) : Byte := BitVec.ofNat 8 (bits.foldl (fun n b => 2 * n + b.toNat) 0)

/-- The whole bytes of the bits sampled in a transaction; the bits of a byte left incomplete are discarded (R180). -/
def wholeBytes : List Bool → List Byte
  | a :: b :: c :: d :: e :: f :: g :: h :: rest => byteOfBits [a, b, c, d, e, f, g, h] :: wholeBytes rest
  | _ => []

/-- The bits of a byte as the port samples them (R180). -/
def bitsOfByte (x : Byte) : List Bool :=
  [x.getLsbD 7, x.getLsbD 6, x.getLsbD 5, x.getLsbD 4, x.getLsbD 3, x.getLsbD 2, x.getLsbD 1, x.getLsbD 0]

/-! ## Frames (R181, R182, R198) -/

/-- The command of a whole frame by its number (R198); a number that names none is answered UNKNOWN (R182). -/
def commandOf (port : PortIx) (number tag : Byte) (payload : List Byte) : Instr :=
  match number.toNat with
  | 0x00 => .nop port tag payload
  | 0x01 => .readStatus port tag payload
  | 0x02 => .readEvents port tag payload
  | 0x03 => .setEventMask port tag payload
  | 0x10 => .readParty port tag payload
  | 0x11 => .readTable port tag payload
  | 0x12 => .setParty port tag payload
  | 0x20 => .answer port tag payload
  | 0x21 => .screen port tag payload
  | 0x22 => .hold port tag payload
  | 0x23 => .ready port tag payload
  | 0x24 => .privateTalk port tag payload
  | 0x25 => .take port tag payload
  | 0x26 => .drop port tag payload
  | 0x30 => .setSend port tag payload
  | 0x31 => .setMonitor port tag payload
  | 0x40 => .key port tag payload
  | 0x41 => .setKey port tag payload
  | 0x42 => .readKeys port tag payload
  | 0x50 => .writeSteps port tag payload
  | 0x51 => .writePitches port tag payload
  | 0x52 => .readToneMemory port tag payload
  | 0x53 => .setPlayer port tag payload
  | 0x54 => .start port tag payload
  | 0x55 => .stop port tag payload
  | 0x56 => .abort port tag payload
  | 0x57 => .setToneRoute port tag payload
  | 0x58 => .readPlayers port tag payload
  | 0x60 => .setDelay port tag payload
  | 0x61 => .dump port tag payload
  | 0x62 => .readDelay port tag payload
  | 0x63 => .setMemorySize port tag payload
  | 0x70 => .setMetering port tag payload
  | 0x71 => .readMeters port tag payload
  | 0x72 => .setSupervisor port tag payload
  | 0x73 => .readSupervisors port tag payload
  | 0x74 => .clearClips port tag payload
  | 0x80 => .setCell port tag payload
  | 0x81 => .setGpo port tag payload
  | 0x82 => .readLogic port tag payload
  | 0x90 => .setLineTiming port tag payload
  | 0x91 => .setClock port tag payload
  | _ => .unknownCommand port number tag payload

/-- A transaction's bytes as a command: the frame check, and the frame taken by its number with the bytes after it ignored
(R181, R182). A transaction without a whole byte carries no command (R180). -/
def decodeFrame (port : PortIx) (bytes : List Byte) : Option Instr :=
  match bytes with
  | [] => none
  | number :: tag :: len :: rest =>
    if len.toNat ≤ 124 ∧ len.toNat ≤ rest.length then some (commandOf port number tag (rest.take len.toNat))
    else some (.frameAnswer port bytes)
  | _ => some (.frameAnswer port bytes)

/-- A transaction's bits as a command; one whose CS fell before RESET release is ignored (R180). -/
def decodeTransaction (port : PortIx) (fellInReset : Bool) (bits : List Bool) : Option Instr :=
  if fellInReset then none else decodeFrame port (wholeBytes bits)

/-- The frame of a command with its number, tag and payload (R181). -/
def wholeFrame (number tag : Byte) (payload : List Byte) : List Byte :=
  number :: tag :: BitVec.ofNat 8 payload.length :: payload

/-- The port a control port command comes on and the bytes of its frame; the other rows have none. -/
def encodeFrame (i : Instr) : Option (PortIx × List Byte) :=
  match i with
  | .frameAnswer q bytes => some (q, bytes)
  | .unknownCommand q n t p => some (q, wholeFrame n t p)
  | .nop q t p => some (q, wholeFrame 0x00 t p)
  | .readStatus q t p => some (q, wholeFrame 0x01 t p)
  | .readEvents q t p => some (q, wholeFrame 0x02 t p)
  | .setEventMask q t p => some (q, wholeFrame 0x03 t p)
  | .readParty q t p => some (q, wholeFrame 0x10 t p)
  | .readTable q t p => some (q, wholeFrame 0x11 t p)
  | .setParty q t p => some (q, wholeFrame 0x12 t p)
  | .answer q t p => some (q, wholeFrame 0x20 t p)
  | .screen q t p => some (q, wholeFrame 0x21 t p)
  | .hold q t p => some (q, wholeFrame 0x22 t p)
  | .ready q t p => some (q, wholeFrame 0x23 t p)
  | .privateTalk q t p => some (q, wholeFrame 0x24 t p)
  | .take q t p => some (q, wholeFrame 0x25 t p)
  | .drop q t p => some (q, wholeFrame 0x26 t p)
  | .setSend q t p => some (q, wholeFrame 0x30 t p)
  | .setMonitor q t p => some (q, wholeFrame 0x31 t p)
  | .key q t p => some (q, wholeFrame 0x40 t p)
  | .setKey q t p => some (q, wholeFrame 0x41 t p)
  | .readKeys q t p => some (q, wholeFrame 0x42 t p)
  | .writeSteps q t p => some (q, wholeFrame 0x50 t p)
  | .writePitches q t p => some (q, wholeFrame 0x51 t p)
  | .readToneMemory q t p => some (q, wholeFrame 0x52 t p)
  | .setPlayer q t p => some (q, wholeFrame 0x53 t p)
  | .start q t p => some (q, wholeFrame 0x54 t p)
  | .stop q t p => some (q, wholeFrame 0x55 t p)
  | .abort q t p => some (q, wholeFrame 0x56 t p)
  | .setToneRoute q t p => some (q, wholeFrame 0x57 t p)
  | .readPlayers q t p => some (q, wholeFrame 0x58 t p)
  | .setDelay q t p => some (q, wholeFrame 0x60 t p)
  | .dump q t p => some (q, wholeFrame 0x61 t p)
  | .readDelay q t p => some (q, wholeFrame 0x62 t p)
  | .setMemorySize q t p => some (q, wholeFrame 0x63 t p)
  | .setMetering q t p => some (q, wholeFrame 0x70 t p)
  | .readMeters q t p => some (q, wholeFrame 0x71 t p)
  | .setSupervisor q t p => some (q, wholeFrame 0x72 t p)
  | .readSupervisors q t p => some (q, wholeFrame 0x73 t p)
  | .clearClips q t p => some (q, wholeFrame 0x74 t p)
  | .setCell q t p => some (q, wholeFrame 0x80 t p)
  | .setGpo q t p => some (q, wholeFrame 0x81 t p)
  | .readLogic q t p => some (q, wholeFrame 0x82 t p)
  | .setLineTiming q t p => some (q, wholeFrame 0x90 t p)
  | .setClock q t p => some (q, wholeFrame 0x91 t p)
  | .reset | .resetRelease _ | .request _ _ | .release _ _ | .reconsideration _ _ | .keyTrigger _ _ _ |
    .playerTrigger _ _ _ | .delayTrigger _ _ _ | .supervisionSample _ | .partyEvaluation _ | .ring _ | .ringAbandon _
    | .answerFailure _ | .loopDrop _ | .clearingComplete _ | .linkUp _ | .linkDown _ | .mePeriodStart |
    .frameComputation _ | .delayWriteRead _ | .delayPeriodStart _ | .dumpJump _ | .playerPeriodStart _ |
    .stepComplete _ | .abortFadeEnd _ | .meterPeriodStart | .measurementComplete | .waitingEnd | .lcPeriodEnd _ |
    .gpoDelivery _ _ _ | .judgement _ | .realign _ => none

end Sys2Proof
end

