-- ==== Sys2Proof/Config.lean ====
section
/-! DEFINITION. The values the manual leaves open. Each is a constant without a body, so that no proof can rest on one. -/

namespace Sys2Proof

/-- What a word of the external SRAM holds that has not been written since RESET, by word address. R112 says that such a
word is never read and gives it no value: a free value (log 7). -/
opaque Config.unwrittenWord : Nat → Sample

/-- The count the delay memory port reads in an insert frame at D above 0, by the delay, its write count and its read count. R197
makes a read in each frame but at D = 0 and names the count of a normal and of a skip frame alone: a free value, taken where R112
allows it (log 18). -/
opaque Config.insertFrameRead : Programme → Count → Count → Count

/-- The levels of MWE, MOE and the address lines that the memory size mode uses, between accesses, by AD1's write count. R197
gives MCS and the data lines there and is silent on these: free values (log 18). -/
opaque Config.idleMemoryLines : Count → Bool × Bool × BitVec 22

end Sys2Proof
end

