-- ==== Sys2Proof/Machine/State.lean ====
section
/-! DEFINITION. The state of the part as plain data: every record, register, queue and context that spec/ names, the
reasons a step can stop, and the state after RESET. -/

namespace Sys2Proof.Machine

/-! ## Party table (chapter 1) -/

/-- The kind of a party, fixed by its index (R1). -/
inductive Kind where
  | phone | codec
  deriving DecidableEq, Repr

/-- The ten state names of phones and codecs (R5); PRIVATE is `priv`. -/
inductive PState where
  | idle | ringing | screen | hold | ready | priv | air | clearing | offline | standby
  deriving DecidableEq, Repr

/-- One party record (R1). Index and kind are the record's place in the table. -/
structure PartyRec where
  state : PState
  programme : Programme
  changes : Byte
  sourceGain : Byte
  returnGain : Byte
  group : Fin 9
  foldBack : Bool
  toneMute : Bool
  echoMark : Option Count
  deriving DecidableEq, Repr

/-! ## Line Supervisor (chapter 2) -/

/-- The supervision context of a line (R35). A history holds up to three samples, newest first. -/
structure LineCtx where
  ring : List Bool
  loop : List Bool
  loopSeen : Bool
  ringCount : Nat
  answerCount : Nat
  dropCount : Nat
  clearingCount : Nat
  deriving DecidableEq, Repr

/-- The supervision context of a link (R35). -/
structure LinkCtx where
  link : List Bool
  valid : List Bool
  deriving DecidableEq, Repr

/-! ## Mix Engine (chapters 3 and 4) -/

/-- One studio send (R54). -/
structure Send where
  gain : Byte
  excluded : Bool
  deriving DecidableEq, Repr

/-- A coefficient across one period: its value at frame 31 of the previous period and its value at frame 31 of this one
(R79). -/
structure Ramp where
  old : Nat
  new : Nat
  deriving DecidableEq, Repr

/-- A feed identity (R82). -/
inductive Feed where
  | silence
  | bus (bus : BusIx) (minus : Mask 24) (excluded : Mask 16)
  | air (programme : Programme)
  deriving DecidableEq, Repr

/-- The key in use at a party, with its studio source and talkback coefficient (R78). -/
structure KeyUse where
  key : KeyIx
  source : StudioIx
  talk : Ramp
  deriving DecidableEq, Repr

/-- A key whose talkback is ramping out in this period (R86). -/
structure KeyTail where
  source : StudioIx
  talk : Ramp
  deriving DecidableEq, Repr

/-- What ME holds for one party in a period (R77, R78). -/
structure PartyMix where
  source : Vector Ramp 5
  heard : Bool
  feedOld : Feed
  feedNew : Feed
  duck : Ramp
  leaving : Option KeyTail
  keyUse : Option KeyUse
  ret : Ramp
  tone : Ramp
  tonePlayers : Mask 4
  deriving DecidableEq, Repr

/-- What ME holds beside the parties (R54, R74, R77, R78). -/
structure Mix where
  sends : Vector (Vector Send 5) 16
  monitor : MonitorIx
  sendCoef : Vector (Vector Ramp 5) 16
  monitorOld : MonitorIx
  monitorNew : MonitorIx
  frame : FrameIx
  period : Nat
  deriving DecidableEq, Repr

/-- The values ME and AD form in one frame for the output slots (R63, R69, R74, R115), with the frame's index. -/
structure Formed where
  index : FrameIx
  buses : Vector Sample 5
  air : Vector Sample 2
  returns : Vector Sample 24
  monitor : Sample
  deriving DecidableEq, Repr

/-- The output slots of one frame as sent on the three audio ports (R192). -/
structure Sent where
  tel : Vector TdmSlot 16
  cdc : Vector TdmSlot 8
  stu : Vector TdmSlot 16
  deriving DecidableEq, Repr

/-! ## Fold-back Arbiter (chapter 5) -/

/-- One talkback key (R92, R93, R95). -/
structure Key where
  source : StudioIx
  priority : Fin 4
  duck : Byte
  talk : Byte
  dest : Mask 24
  trigger : Option CellIx
  latches : Vector Bool 3
  triggerOut : Bool
  active : Bool
  deriving DecidableEq, Repr

/-- The fold-back context of one party (R96), the front of the list first. -/
structure FoldBack where
  list : List KeyIx
  inService : Option KeyIx
  deriving DecidableEq, Repr

/-! ## Air Delays (chapter 6) -/

/-- The memory size mode (R112). -/
inductive MemSize where
  | a18 | a20 | a22
  deriving DecidableEq, Repr

/-- The state of a delay (R117). -/
inductive DelayState where
  | bypass | building | atTarget | shrinking | dumpOut | dumpIn
  deriving DecidableEq, Repr

/-- The hold-feed mode of a programme (R128). -/
inductive HoldFeed where
  | pre | air
  deriving DecidableEq, Repr

/-- The context of one air delay (R114). `targetInUse` and `ratioInUse` are the target and the ratio the delay took at its
last period-start event (R118, R120). -/
structure Delay where
  w : Count
  rd : Count
  state : DelayState
  target : Nat
  segment : Nat
  ratioCode : Fin 4
  qEnter : Nat
  qLeave : Nat
  quiet : Bool
  peak : Nat
  last : Sample
  dumps : Nat
  dumpPending : Bool
  lastJump : Nat
  holdFeed : HoldFeed
  trigger : Option CellIx
  triggerOut : Bool
  targetInUse : Nat
  ratioInUse : Fin 4
  deriving DecidableEq, Repr

/-- One access of a delay on the delay memory port (R197). -/
inductive MemAccess where
  | write (address : BitVec 22) (data : Sample)
  | read (address : BitVec 22)
  deriving DecidableEq, Repr

/-! ## Tone Players (chapter 7) -/

/-- A step entry of the tone memory (R136); `last` is END. -/
structure Step where
  pitch : Fin 32
  length : Nat
  level : Fin 4
  last : Bool
  deriving DecidableEq, Repr

/-- The mode of a player (R140). -/
inductive PlayMode where
  | oneshot | continuous
  deriving DecidableEq, Repr

/-- The state of a player (R140). -/
inductive PlayerState where
  | idle | playing | stopping
  deriving DecidableEq, Repr

/-- The abort of a player (R140, R145). -/
inductive AbortState where
  | clear | requested | fading
  deriving DecidableEq, Repr

/-- One tone player (R140). `current` is the step entry read when the step in progress began (R136). -/
structure Player where
  start : Byte
  tick : Nat
  mode : PlayMode
  trigger : Option CellIx
  triggerOut : Bool
  state : PlayerState
  abort : AbortState
  latchedStart : Byte
  latchedTick : Nat
  stepAddr : Byte
  stepPending : Bool
  remaining : Nat
  phase : BitVec 16
  current : Step
  deriving DecidableEq, Repr

/-- One tone route (R148). -/
structure Route where
  players : Mask 4
  gain : Byte
  deriving DecidableEq, Repr

/-! ## Level Monitor (chapter 8) -/

/-- The metering mode (R153). -/
inductive MeterMode where
  | off | continuous | periodic
  deriving DecidableEq, Repr

/-- The metering phase (R153). -/
inductive MeterPhase where
  | stopped | measuring | waiting
  deriving DecidableEq, Repr

/-- The metering context (R153), without the points. -/
structure Meter where
  mode : MeterMode
  window : Nat
  repeats : Nat
  phase : MeterPhase
  windowInUse : Nat
  periodsLeft : Nat
  measurements : Byte
  deriving DecidableEq, Repr

/-- One meter point (R153). -/
structure Point where
  acc : Nat
  code : Nat
  valid : Bool
  clip : Bool
  deriving DecidableEq, Repr

/-- What a supervisor watches for (R160). -/
inductive SupMode where
  | silence | overload
  deriving DecidableEq, Repr

/-- One level supervisor (R160); `alarm` is the state ALARM, false is NORMAL. -/
structure Sup where
  enable : Bool
  point : PointIx
  mode : SupMode
  threshold : Nat
  count : Nat
  hyst : Nat
  alarm : Bool
  run : Nat
  deriving DecidableEq, Repr

/-! ## Logic Cells (chapter 9) -/

/-- The filter of a cell (R171). -/
inductive CellFilter where
  | none | sync | stable
  deriving DecidableEq, Repr

/-- One logic cell (R169); entry n of the truth table is bit n. -/
structure Cell where
  enable : Bool
  in0 : SignalIx
  in1 : SignalIx
  in2 : SignalIx
  table : Byte
  filter : CellFilter
  edge : Bool
  watched : PartyIx
  restart : Bool
  held : Bool
  filtered : Bool
  previous : Bool
  output : Bool
  deriving DecidableEq, Repr

/-- What a GPO pin selects (R175). -/
inductive GpoSel where
  | cell (c : CellIx)
  | const (b : Bool)
  deriving DecidableEq, Repr

/-- One GPO pin (R175). -/
structure Gpo where
  selection : GpoSel
  activeLow : Bool
  active : Bool
  deriving DecidableEq, Repr

/-! ## Control Ports (chapter 10) -/

/-- The result of a reply (R184). -/
inductive Result where
  | ok | adjusted | already | stale | notAllowed | illegal | busy | frame | unknown
  deriving DecidableEq, Repr

/-- The role of a port (R185). -/
inductive Role where
  | engineering
  | studio (k : Programme)
  | screener
  deriving DecidableEq, Repr

/-- The eleven events (R188). -/
inductive Event where
  | party | ring | hangup | flash | link | delay | tone | supervise | clock | clip | gpi
  deriving DecidableEq, Repr

/-- The reply slot of a port (R183); the length M is that of the body. -/
structure Slot where
  tag : Byte
  result : Result
  body : List Byte
  deriving DecidableEq, Repr

/-- One control port (R183, R185, R188, R189); bit n of flags and mask is the event of number n (R198). -/
structure Port where
  role : Role
  slot : Slot
  flags : BitVec 11
  mask : BitVec 11
  deriving DecidableEq, Repr

/-! ## Clock Unit (chapter 11) -/

/-- The lock state (R194). -/
inductive Lock where
  | freeRun | relock | locked
  deriving DecidableEq, Repr

/-- The Clock Unit (R194). `firstLocked` marks the first LOCKED period, in which the outputs fade in (R195). -/
structure Clock where
  lock : Lock
  settle : Nat
  exponent : Nat
  fadeInOwed : Bool
  firstLocked : Bool
  deriving DecidableEq, Repr

/-! ## The whole state -/

/-- The state of the part. `handed` and `pending` are the model's own: the arrivals one block has handed to another and
that have not been taken (log 8), and the queue of waiting commands (log 2). `memInUse` is the memory size mode of the running
frame (R113), `memPort` the accesses that each delay has made on the delay memory port in it (R197), and `writers` the delay that
wrote each listed word of the SRAM last (R112; the model's record, log 18). -/
structure State where
  inReset : Bool
  parties : Vector PartyRec 24
  lines : Vector LineCtx 16
  links : Vector LinkCtx 8
  dropCode : Fin 3
  mix : Mix
  partyMix : Vector PartyMix 24
  formed : Formed
  formedBefore : Formed
  sent : Sent
  keys : Vector Key 4
  foldBacks : Vector FoldBack 24
  memSize : MemSize
  memInUse : MemSize
  delays : Vector Delay 2
  sram : List (Nat × Sample)
  writers : List (Nat × Programme)
  memPort : Vector (List MemAccess) 2
  steps : Vector Step 256
  pitches : Vector Nat 32
  players : Vector Player 4
  routes : Vector Route 6
  meter : Meter
  points : Vector Point 71
  sups : Vector Sup 8
  gpis : Vector (List Bool) 8
  cells : Vector Cell 8
  gpos : Vector Gpo 8
  ports : Vector Port 3
  clock : Clock
  handed : List Instr
  pending : List Instr
  deriving DecidableEq, Repr

/-- The reasons a step can fault. There is none: the manual gives no condition that stops the part. -/
inductive Fault where
  deriving DecidableEq, Repr

/-- The reasons a step can be refused. -/
inductive Refusal where
  /-- Raised by an arm of exec for a command that has no meaning in the model; no arm raises it. Safe: the model stops
  where the part goes on. -/
  | notModelled (mnemonic : String)
  deriving DecidableEq, Repr

/-! ## After RESET -/

/-- A party record after RESET (R2). -/
def PartyRec.atReset (p : PartyIx) : PartyRec :=
  { state := if p.val < 16 then .idle else .offline, programme := 0, changes := 0, sourceGain := 12, returnGain := 12,
    group := 0, foldBack := true, toneMute := false, echoMark := none }

/-- A line context after RESET (R35). -/
def LineCtx.atReset : LineCtx :=
  { ring := [], loop := [], loopSeen := false, ringCount := 0, answerCount := 0, dropCount := 0, clearingCount := 0 }

/-- A link context after RESET (R35). -/
def LinkCtx.atReset : LinkCtx := { link := [], valid := [] }

/-- ME's own state after RESET (R54, R74, R76, R78, R192). -/
def Mix.atReset : Mix :=
  { sends := Vector.replicate 16 (Vector.replicate 5 { gain := 255, excluded := false }), monitor := 24,
    sendCoef := Vector.replicate 16 (Vector.replicate 5 { old := 0, new := 0 }), monitorOld := 24, monitorNew := 24,
    frame := 0, period := 0 }

/-- ME's context of a party after RESET (R78). -/
def PartyMix.atReset : PartyMix :=
  { source := Vector.replicate 5 { old := 0, new := 0 }, heard := false, feedOld := .silence, feedNew := .silence,
    duck := { old := 16384, new := 16384 }, leaving := none, keyUse := none, ret := { old := 16384, new := 16384 },
    tone := { old := 0, new := 0 }, tonePlayers := Vector.replicate 4 false }

/-- The output values before the first frame: silence (R76; log 17). -/
def Formed.atReset : Formed :=
  { index := 0, buses := Vector.replicate 5 0, air := Vector.replicate 2 0, returns := Vector.replicate 24 0, monitor := 0 }

/-- The output slots at RESET: held low (R192). -/
def Sent.atReset : Sent :=
  { tel := Vector.replicate 16 0, cdc := Vector.replicate 8 0, stu := Vector.replicate 16 0 }

/-- A key after RESET: source and priority are the key number (R92). -/
def Key.atReset (k : KeyIx) : Key :=
  { source := ⟨k.val, by omega⟩, priority := k, duck := 24, talk := 12, dest := Vector.replicate 24 false, trigger := none,
    latches := Vector.replicate 3 false, triggerOut := false, active := false }

/-- A fold-back context after RESET (R96). -/
def FoldBack.atReset : FoldBack := { list := [], inService := none }

/-- A delay after RESET (R114). -/
def Delay.atReset : Delay :=
  { w := 0, rd := 0, state := .bypass, target := 0, segment := 0, ratioCode := 1, qEnter := 2, qLeave := 4, quiet := false,
    peak := 0, last := 0, dumps := 0, dumpPending := false, lastJump := 0, holdFeed := .pre, trigger := none,
    triggerOut := false, targetInUse := 0, ratioInUse := 1 }

/-- A step entry after RESET (R136). -/
def Step.atReset : Step := { pitch := 0, length := 1, level := 0, last := true }

/-- A player after RESET (R140). -/
def Player.atReset : Player :=
  { start := 0, tick := 1, mode := .oneshot, trigger := none, triggerOut := false, state := .idle, abort := .clear,
    latchedStart := 0, latchedTick := 1, stepAddr := 0, stepPending := false, remaining := 0, phase := 0,
    current := Step.atReset }

/-- A tone route after RESET (R148). -/
def Route.atReset : Route := { players := Vector.replicate 4 false, gain := 255 }

/-- The metering context after RESET (R153). -/
def Meter.atReset : Meter :=
  { mode := .off, window := 10, repeats := 2, phase := .stopped, windowInUse := 10, periodsLeft := 0, measurements := 0 }

/-- A meter point after RESET (R153). -/
def Point.atReset : Point := { acc := 0, code := 0, valid := false, clip := false }

/-- A supervisor after RESET (R160). -/
def Sup.atReset : Sup :=
  { enable := false, point := 64, mode := .silence, threshold := 2, count := 15, hyst := 2, alarm := false, run := 0 }

/-- A cell after RESET (R169). -/
def Cell.atReset : Cell :=
  { enable := false, in0 := 0, in1 := 0, in2 := 0, table := 0, filter := .none, edge := false, watched := 0,
    restart := false, held := false, filtered := false, previous := false, output := false }

/-- A GPO pin after RESET (R175). -/
def Gpo.atReset : Gpo := { selection := .const false, activeLow := false, active := false }

/-- A control port after RESET (R183, R191). The role is the one both straps low give (DESIGN CHOICE, log 4). -/
def Port.atReset : Port :=
  { role := .engineering, slot := { tag := 0, result := .ok, body := [] }, flags := 0, mask := 0 }

/-- The Clock Unit after RESET (R194). -/
def Clock.atReset : Clock := { lock := .freeRun, settle := 0, exponent := 10, fadeInOwed := false, firstLocked := false }

/-- The part right after RESET: every item at the value the spec states for it, the RESET pin released with every role
strap low (DESIGN CHOICE, log 4), the queue empty. -/
def State.reset : State :=
  { inReset := false
    parties := Vector.ofFn PartyRec.atReset
    lines := Vector.replicate 16 LineCtx.atReset
    links := Vector.replicate 8 LinkCtx.atReset
    dropCode := 1
    mix := Mix.atReset
    partyMix := Vector.replicate 24 PartyMix.atReset
    formed := Formed.atReset
    formedBefore := Formed.atReset
    sent := Sent.atReset
    keys := Vector.ofFn Key.atReset
    foldBacks := Vector.replicate 24 FoldBack.atReset
    memSize := .a18
    memInUse := .a18
    delays := Vector.replicate 2 Delay.atReset
    sram := []
    writers := []
    memPort := Vector.replicate 2 []
    steps := Vector.replicate 256 Step.atReset
    pitches := Vector.replicate 32 1
    players := Vector.replicate 4 Player.atReset
    routes := Vector.replicate 6 Route.atReset
    meter := Meter.atReset
    points := Vector.replicate 71 Point.atReset
    sups := Vector.replicate 8 Sup.atReset
    gpis := Vector.replicate 8 []
    cells := Vector.replicate 8 Cell.atReset
    gpos := Vector.replicate 8 Gpo.atReset
    ports := Vector.replicate 3 Port.atReset
    clock := Clock.atReset
    handed := []
    pending := [] }

end Sys2Proof.Machine
end

