-- ==== Sys2Proof/Machine/Operands.lean ====
section
/-! DEFINITION. The operands of commands as bytes: fields of a payload, selection words, codes, and the ways a value sent is
stored (as sent, clamped, or adjusted). Chapter 11 gives the layouts, each owning chapter the stored values. -/

namespace Sys2Proof.Machine

/-! ## Fields -/

/-- A two-byte field, most significant byte first (R198). -/
def be16 (h l : Byte) : Nat := h.toNat * 256 + l.toNat

/-- A three-byte field, most significant byte first (R198). -/
def be24 (a b c : Byte) : Nat := (a.toNat * 256 + b.toNat) * 256 + c.toNat

/-- A field that names one of n things, or none where it is out of range. -/
def fin? (n v : Nat) : Option (Fin n) := if h : v < n then some ⟨v, h⟩ else none

/-- One byte of a reply. -/
def byte (n : Nat) : Byte := BitVec.ofNat 8 n

/-- A two-byte field of a reply. -/
def bytes16 (n : Nat) : List Byte := [byte (n / 256), byte n]

/-- A three-byte field of a reply. -/
def bytes24 (n : Nat) : List Byte := [byte (n / 65536), byte (n / 256), byte n]

/-- A four-byte field of a reply. -/
def bytes32 (n : Nat) : List Byte := [byte (n / 16777216), byte (n / 65536), byte (n / 256), byte n]

/-- A flag of a reply: 0 or 1 (R198). -/
def flag (b : Bool) : Byte := if b then 1 else 0

/-- Bit n of the two-byte selection word selects the nth setting (R198). -/
def selected (h l : Byte) (n : Nat) : Bool := (be16 h l).testBit n

/-- A set carried as bits: item i is bit i of the field (R198). -/
def maskOf (n v : Nat) : Mask n := Vector.ofFn fun i => v.testBit i.val

/-- The field that carries a set. -/
def maskNat {n : Nat} (m : Mask n) : Nat := ((List.finRange n).map fun i => if m[i] then 2 ^ i.val else 0).sum

/-! ## Codes (R198, R200) -/

/-- The code of a state name. -/
def PState.code : PState → Byte
  | .idle => 0 | .ringing => 1 | .screen => 2 | .hold => 3 | .ready => 4
  | .priv => 5 | .air => 6 | .clearing => 7 | .offline => 8 | .standby => 9

/-- The state name of a code; 10 to 255 are undefined. -/
def PState.ofCode (b : Byte) : Option PState :=
  match b.toNat with
  | 0 => some .idle | 1 => some .ringing | 2 => some .screen | 3 => some .hold | 4 => some .ready
  | 5 => some .priv | 6 => some .air | 7 => some .clearing | 8 => some .offline | 9 => some .standby
  | _ => none

/-- The code of a result. -/
def Result.code : Result → Byte
  | .ok => 0 | .adjusted => 1 | .already => 2 | .stale => 3 | .notAllowed => 4
  | .illegal => 5 | .busy => 6 | .frame => 7 | .unknown => 8

/-- The code of a kind. -/
def Kind.code : Kind → Byte
  | .phone => 0 | .codec => 1

/-- The code of a role. -/
def Role.code : Role → Byte
  | .engineering => 0 | .studio k => byte (k.val + 1) | .screener => 3

/-- The code of a lock state. -/
def Lock.code : Lock → Byte
  | .freeRun => 0 | .relock => 1 | .locked => 2

/-- The code of a delay state. -/
def DelayState.code : DelayState → Byte
  | .bypass => 0 | .building => 1 | .atTarget => 2 | .shrinking => 3 | .dumpOut => 4 | .dumpIn => 5

/-- The code of a hold-feed mode (R131). -/
def HoldFeed.code : HoldFeed → Byte
  | .pre => 0 | .air => 1

/-- The code of a memory size mode (R113). -/
def MemSize.code : MemSize → Byte
  | .a18 => 0 | .a20 => 1 | .a22 => 2

/-- The code of a player mode (R141). -/
def PlayMode.code : PlayMode → Byte
  | .oneshot => 0 | .continuous => 1

/-- The code of a player state, in the order of R140. -/
def PlayerState.code : PlayerState → Byte
  | .idle => 0 | .playing => 1 | .stopping => 2

/-- The code of an abort, in the order of R140. -/
def AbortState.code : AbortState → Byte
  | .clear => 0 | .requested => 1 | .fading => 2

/-- The code of a metering mode (R156). -/
def MeterMode.code : MeterMode → Byte
  | .off => 0 | .continuous => 1 | .periodic => 2

/-- The code of a metering phase. -/
def MeterPhase.code : MeterPhase → Byte
  | .stopped => 0 | .measuring => 1 | .waiting => 2

/-- The code of a supervisor's mode (R162). -/
def SupMode.code : SupMode → Byte
  | .silence => 0 | .overload => 1

/-- The code of a cell's filter (R176). -/
def CellFilter.code : CellFilter → Byte
  | .none => 0 | .sync => 1 | .stable => 2

/-- The code of a GPO selection (R177). -/
def GpoSel.code : GpoSel → Byte
  | .cell c => byte c.val | .const false => 8 | .const true => 9

/-- The wire number of a programme: 1 or 2. -/
def programmeCode (k : Programme) : Byte := byte (k.val + 1)

/-- The programme, or the delay, that a field names. -/
def programmeOf (b : Byte) : Option Programme :=
  match b.toNat with
  | 1 => some 0 | 2 => some 1 | _ => none

/-- The code of a trigger cell: 0 to 7, or 8 for none (R104). -/
def triggerCode : Option CellIx → Byte
  | some c => byte c.val | none => 8

/-- The trigger cell that a field names. -/
def triggerOf (b : Byte) : Option (Option CellIx) :=
  if b.toNat = 8 then some none else (fin? 8 b.toNat).map some

/-- The code of an in-service key: 255 for absent. -/
def keyCode : Option KeyIx → Byte
  | some k => byte k.val | none => 255

/-- The hold-feed mode that a field names. -/
def holdFeedOf (b : Byte) : Option HoldFeed :=
  match b.toNat with
  | 0 => some .pre | 1 => some .air | _ => none

/-- The memory size mode that a field names. -/
def memSizeOf (b : Byte) : Option MemSize :=
  match b.toNat with
  | 0 => some .a18 | 1 => some .a20 | 2 => some .a22 | _ => none

/-- The player mode that a field names. -/
def playModeOf (b : Byte) : Option PlayMode :=
  match b.toNat with
  | 0 => some .oneshot | 1 => some .continuous | _ => none

/-- The metering mode that a field names. -/
def meterModeOf (b : Byte) : Option MeterMode :=
  match b.toNat with
  | 0 => some .off | 1 => some .continuous | 2 => some .periodic | _ => none

/-- The supervisor mode that a field names. -/
def supModeOf (b : Byte) : Option SupMode :=
  match b.toNat with
  | 0 => some .silence | 1 => some .overload | _ => none

/-- The filter that a field names. -/
def filterOf (b : Byte) : Option CellFilter :=
  match b.toNat with
  | 0 => some .none | 1 => some .sync | 2 => some .stable | _ => none

/-- The GPO selection that a field names. -/
def gpoSelOf (b : Byte) : Option GpoSel :=
  match b.toNat with
  | 8 => some (.const false) | 9 => some (.const true) | n => (fin? 8 n).map .cell

/-- The polarity that a field names, true for ACTIVE-LOW (R177). -/
def polarityOf (b : Byte) : Option Bool :=
  match b.toNat with
  | 0 => some false | 1 => some true | _ => none

/-- The index of a state's tone route, for the six connected states in the order of R148. -/
def routeIx : PState → Option (Fin 6)
  | .screen => some 0 | .hold => some 1 | .ready => some 2 | .standby => some 3 | .priv => some 4 | .air => some 5
  | .idle | .ringing | .clearing | .offline => none

/-! ## Values as stored -/

/-- A checked field: where the setting is selected its code must be defined, and where it is not selected the value held is
kept. None says that the operand check fails. -/
def checked {α : Type} (sel : Bool) (sent : Option α) (held : α) : Option α := if sel then sent else some held

/-- A stored value with whether it was adjusted. -/
abbrev Stored (α : Type) := α × Bool

/-- A setting that is not selected keeps its value. -/
def store {α : Type} (sel : Bool) (new : Stored α) (held : α) : Stored α := if sel then new else (held, false)

/-- A gain code of 193 to 255 is stored as 255, and is not adjusted (R51). -/
def gainStored (b : Byte) : Stored Byte := (if b.toNat ≤ 192 then b else 255, false)

/-- A flag: 0 is off, 1 is on, 2 to 255 are on and adjusted (R29, R55, R162, R176). -/
def flagStored (b : Byte) : Stored Bool := (b.toNat != 0, decide (2 ≤ b.toNat))

/-- A value kept within lo to hi, adjusted where it was outside. -/
def clamp (lo hi v : Nat) : Stored Nat := (max lo (min hi v), decide (v < lo ∨ hi < v))

/-- OK, or ADJUSTED where a value was adjusted (R184). -/
def okOr (adjusted : Bool) : Result := if adjusted then .adjusted else .ok

end Sys2Proof.Machine
end

