-- ==== Sys2Proof/Machine/Flags.lean ====
section
/-! DEFINITION. The flags of the part: event flags, masks and ATTN of the ports (R188 to R190), the three-sample filter of
auxiliary bits and GPI pins (R36, R166), the auxiliary outputs SEIZE and ONAIR (R46), the level code (R152), and the 46
signals offered to the logic cells (R167). -/

namespace Sys2Proof.Machine

/-! ## Events -/

/-- The number of an event's flag (R198). -/
def Event.bit : Event → Nat
  | .party => 0 | .ring => 1 | .hangup => 2 | .flash => 3 | .link => 4 | .delay => 5
  | .tone => 6 | .supervise => 7 | .clock => 8 | .clip => 9 | .gpi => 10

/-- The flag of one event. -/
def Event.flagOf (e : Event) : BitVec 11 := BitVec.ofNat 11 (2 ^ e.bit)

/-- An event sets its flag on all three ports (R188). -/
def raise (e : Event) (s : State) : State :=
  { s with ports := Vector.ofFn fun q : PortIx => { s.ports[q] with flags := s.ports[q].flags ||| e.flagOf } }

/-- An event raised where a condition holds. -/
def raiseIf (b : Bool) (e : Event) (s : State) : State := if b then raise e s else s

/-- The ATTN line of a port, true for low: it is low exactly while the port holds a flag that its mask enables (R189). -/
def attn (s : State) (q : PortIx) : Bool := s.ports[q].flags &&& s.ports[q].mask != 0

/-! ## The three-sample filter -/

/-- A new sample enters a history of at most three; the oldest leaves it (R36, R166). -/
def pushSample (b : Bool) (h : List Bool) : List Bool := (b :: h).take 3

/-- The filtered value: what two of three samples agree on, and absent while there are fewer than three (R36, R166). -/
def filtered : List Bool → Bool
  | [a, b, c] => (a && b) || (a && c) || (b && c)
  | _ => false

/-! ## Parties -/

/-- The kind of a party (R1). -/
def kindOf (p : PartyIx) : Kind := if p.val < 16 then .phone else .codec

/-- The connected states (R5). -/
def PState.connected : PState → Bool
  | .screen | .hold | .ready | .priv | .air | .standby => true
  | .idle | .ringing | .clearing | .offline => false

/-- The connected states of a phone (R5, R39). -/
def PState.phoneConnected : PState → Bool
  | .screen | .hold | .ready | .priv | .air => true
  | .standby | .idle | .ringing | .clearing | .offline => false

/-- HOLD or READY (R12, R129). -/
def PState.waiting : PState → Bool
  | .hold | .ready => true
  | _ => false

/-- SEIZE of a line: 1 in the connected phone states (R46). -/
def seize (s : State) (p : PartyIx) : Bool := decide (p.val < 16) && s.parties[p].state.phoneConnected

/-- ONAIR of a party: 1 in AIR (R46). -/
def onair (s : State) (p : PartyIx) : Bool := s.parties[p].state == .air

/-- The first filtered supervision flag of a party: RING of a line, LINK of a codec (R32). -/
def filteredFirst (s : State) (p : PartyIx) : Bool :=
  if h : p.val < 16 then filtered s.lines[p.val].ring else filtered s.links[p.val - 16].link

/-- The second filtered supervision flag of a party: LOOP of a line, VALID of a codec (R32). -/
def filteredSecond (s : State) (p : PartyIx) : Bool :=
  if h : p.val < 16 then filtered s.lines[p.val].loop else filtered s.links[p.val - 16].valid

/-! ## Levels -/

/-- The bit length of a number below 2^24 (level codes are defined for magnitudes up to 8388607; log 29). -/
def bitLength (m : Nat) : Nat := if m = 0 then 0 else Nat.log2 m + 1

/-- The level code of a magnitude: its bit length less 8, within 0 to 15 (R152). -/
def levelCode (m : Nat) : Nat := min 15 (bitLength m - 8)

/-- The magnitude of a sample, with -8388608 counted as 8388607 (R119, R152). -/
def magnitude (x : Int) : Nat := min 8388607 x.natAbs

/-! ## Signals -/

/-- Some party is in a state. -/
def anyIn (s : State) (st : PState) : Bool := (List.finRange 24).any fun p => s.parties[p].state == st

/-- Some party is in a state with a programme. -/
def anyInOn (s : State) (st : PState) (k : Programme) : Bool :=
  (List.finRange 24).any fun p => s.parties[p].state == st && s.parties[p].programme == k

/-- The serving count of a key: the parties at which it is in service (R107). -/
def servingCount (s : State) (k : KeyIx) : Nat := (List.finRange 24).countP fun p => s.foldBacks[p].inService == some k

/-- A delay in any state but BYPASS. -/
def DelayState.on : DelayState → Bool
  | .bypass => false
  | _ => true

/-- A delay in DUMP_OUT or DUMP_IN. -/
def DelayState.dumping : DelayState → Bool
  | .dumpOut | .dumpIn => true
  | _ => false

/-- The value of a signal for one cell (R34, R107, R134, R150, R161, R167, R194), as the publishing blocks hold it. -/
def signal (s : State) (c : CellIx) (n : SignalIx) : Bool :=
  match n.val with
  | 0 => false
  | 1 => s.cells[c].output
  | 2 => (s.cells[(c.val + 1) % 8]'(Nat.mod_lt _ (by decide))).output
  | 3 => filtered s.gpis[0]
  | 4 => filtered s.gpis[1]
  | 5 => filtered s.gpis[2]
  | 6 => filtered s.gpis[3]
  | 7 => filtered s.gpis[4]
  | 8 => filtered s.gpis[5]
  | 9 => filtered s.gpis[6]
  | 10 => filtered s.gpis[7]
  | 11 => anyIn s .ringing
  | 12 => anyInOn s .ready 0
  | 13 => anyInOn s .ready 1
  | 14 => anyInOn s .air 0
  | 15 => anyInOn s .air 1
  | 16 => anyIn s .screen
  | 17 => s.parties[s.cells[c].watched].state == .air
  | 18 => s.parties[s.cells[c].watched].state.waiting
  | 19 => s.keys[0].active
  | 20 => s.keys[1].active
  | 21 => s.keys[2].active
  | 22 => s.keys[3].active
  | 23 => decide (0 < servingCount s 0)
  | 24 => decide (0 < servingCount s 1)
  | 25 => decide (0 < servingCount s 2)
  | 26 => decide (0 < servingCount s 3)
  | 27 => s.players[0].state != .idle
  | 28 => s.players[1].state != .idle
  | 29 => s.players[2].state != .idle
  | 30 => s.players[3].state != .idle
  | 31 => s.sups[0].alarm
  | 32 => s.sups[1].alarm
  | 33 => s.sups[2].alarm
  | 34 => s.sups[3].alarm
  | 35 => s.sups[4].alarm
  | 36 => s.sups[5].alarm
  | 37 => s.sups[6].alarm
  | 38 => s.sups[7].alarm
  | 39 => s.delays[0].state.on
  | 40 => s.delays[1].state.on
  | 41 => s.delays[0].state.dumping
  | 42 => s.delays[1].state.dumping
  | 43 => s.delays[0].state == .atTarget
  | 44 => s.delays[1].state == .atTarget
  | _ => s.clock.lock == .freeRun

end Sys2Proof.Machine
end

