-- ==== Sys2Proof/Machine/Ops.lean ====
section
/-! DEFINITION. The shared operations: the arithmetic of chapter 3, ramps and fades, the delay memory, the fold-back list,
the change of a party's state, replies and arrivals handed to another block. -/

namespace Sys2Proof.Machine

/-- The outcome of one command: a next state, or a stop. -/
abbrev Outcome := Host.Outcome State Fault Refusal

/-- While RESET is asserted no transaction is taken and no frame or period runs (R180, R192; log 5), so the command changes
nothing; otherwise it has its effect. -/
def live (s : State) (effect : State) : Outcome := .next (if s.inReset then s else effect)

/-! ## Arithmetic (R51, R52, R79, R80) -/

/-- round(a) of R52: the floor of (a + 8192) / 16384. -/
def rnd (a : Int) : Int := (a + 8192) / 16384

/-- sat(x) of R52: x clamped to the sample range. -/
def sat (x : Int) : Int := max (-8388608) (min 8388607 x)

/-- A value saturates when sat changes it (R52). -/
def saturates (x : Int) : Bool := sat x != x

/-- A value in the sample range as a sample. -/
def toSample (x : Int) : Sample := BitVec.ofInt 24 x

/-- The coefficients of gain codes 0 to 192: 16384 x 10^((12 - v)/40), a half rounded up (R51). -/
def gainTable : List Nat :=
  [32690, 30862, 29135, 27506, 25967, 24514, 23143, 21848, 20626, 19472, 18383, 17355, 16384, 15467, 14602, 13785, 13014, 12286, 11599, 10950, 10338, 9759, 9213, 8698] ++
  [8211, 7752, 7318, 6909, 6523, 6158, 5813, 5488, 5181, 4891, 4618, 4359, 4115, 3885, 3668, 3463, 3269, 3086, 2914, 2751, 2597, 2451, 2314, 2185] ++
  [2063, 1947, 1838, 1735, 1638, 1547, 1460, 1379, 1301, 1229, 1160, 1095, 1034, 976, 921, 870, 821, 775, 732, 691, 652, 616, 581, 549] ++
  [518, 489, 462, 436, 412, 389, 367, 346, 327, 309, 291, 275, 260, 245, 231, 218, 206, 195, 184, 174, 164, 155, 146, 138] ++
  [130, 123, 116, 110, 103, 98, 92, 87, 82, 78, 73, 69, 65, 62, 58, 55, 52, 49, 46, 44, 41, 39, 37, 35] ++
  [33, 31, 29, 28, 26, 25, 23, 22, 21, 19, 18, 17, 16, 15, 15, 14, 13, 12, 12, 11, 10, 10, 9, 9] ++
  [8, 8, 7, 7, 7, 6, 6, 5, 5, 5, 5, 4, 4, 4, 4, 3, 3, 3, 3, 3, 3, 2, 2, 2] ++
  [2, 2, 2, 2, 2, 2, 1, 1, 1, 1, 1, 1, 1, 1, 1, 1, 1, 1, 1, 1, 1, 1, 1, 1] ++
  [1]

/-- The coefficient c(v) of a gain code; OFF, 193 or more, has 0 (R51). -/
def coef (v : Byte) : Nat := gainTable.getD v.toNat 0

/-- The fade-out coefficient of frame i (R80, Conventions). -/
def fadeOut (i : FrameIx) : Int := 16384 - 512 * ((i.val : Int) + 1)

/-- The fade-in coefficient of frame i (R80, Conventions). -/
def fadeIn (i : FrameIx) : Int := 512 * ((i.val : Int) + 1)

/-- A ramped coefficient at frame i: the old value and the part of the difference, truncated toward zero (R79). -/
def rampAt (r : Ramp) (i : FrameIx) : Int :=
  (r.old : Int) + (((r.new : Int) - (r.old : Int)) * ((i.val : Int) + 1)).tdiv 32

/-- The next period's ramp of a coefficient: from the value held to the value taken (R78, R79). -/
def Ramp.toward (r : Ramp) (taken : Nat) : Ramp := { old := r.new, new := taken }

/-- A ramp that has landed. -/
def Ramp.settle (r : Ramp) : Ramp := { old := r.new, new := r.new }

/-- The blend of an old and a new value at frame i (R66, R75). -/
def blend (i : FrameIx) (old new : Int) : Int := rnd (old * fadeOut i + new * fadeIn i)

/-! ## The delay memory (R112, R114) -/

/-- The capacity C of each delay, in words (R112). -/
def MemSize.capacity : MemSize → Nat
  | .a18 => 131072 | .a20 => 524288 | .a22 => 2097152

/-- The largest length, C - 64 (R112). -/
def MemSize.lMax (m : MemSize) : Nat := m.capacity - 64

/-- The target maximum in periods (R112). -/
def MemSize.targetMax : MemSize → Nat
  | .a18 => 4094 | .a20 => 16382 | .a22 => 65534

/-- The length D = (W - Rd) mod 2^32 (R114). -/
def Delay.length (d : Delay) : Nat := (d.w - d.rd).toNat

/-- The word address of count x in delay k: (k - 1) x C + (x mod C) (R112). -/
def wordAddr (m : MemSize) (k : Programme) (x : Count) : Nat := k.val * m.capacity + x.toNat % m.capacity

/-- The canonical form of the SRAM, or of a record kept by its words: addresses strictly rising, each listed once. -/
abbrev Memory.wf {α : Type} (m : List (Nat × α)) : Prop := m.Pairwise fun a b => a.1 < b.1

/-- What is listed at a word address, none where nothing was written since RESET. -/
def sramRead {α : Type} : List (Nat × α) → Nat → Option α
  | [], _ => none
  | (b, v) :: rest, a => if b = a then some v else sramRead rest a

/-- An entry written at a word address, the list kept rising. -/
def sramWrite {α : Type} : List (Nat × α) → Nat → α → List (Nat × α)
  | [], a, v => [(a, v)]
  | (b, w) :: rest, a, v =>
    if a < b then (a, v) :: (b, w) :: rest
    else if a = b then (a, v) :: rest
    else (b, w) :: sramWrite rest a v

/-- What a read of an address gives: the word written, or an open value where none was (log 7). -/
def sramWord (m : List (Nat × Sample)) (a : Nat) : Sample := (sramRead m a).getD (Config.unwrittenWord a)

/-! ## Replies, and arrivals handed to another block -/

/-- A reply placed in the slot of the port that sent the command (R182, R183). -/
def reply (q : PortIx) (tag : Byte) (r : Result) (body : List Byte) (s : State) : State :=
  { s with ports := s.ports.set q { s.ports[q] with slot := { tag := tag, result := r, body := body } } }

/-- Arrivals handed to another block (log 8). -/
def hand (l : List Instr) (s : State) : State := { s with handed := s.handed ++ l }

/-- An arrival that was handed on is taken (log 8). -/
def took (i : Instr) (s : State) : State := { s with handed := s.handed.erase i }

/-! ## The fold-back list (R97 to R103) -/

/-- The key of a list with the lowest priority number, the earliest among equals (R97). -/
def selectKey (pri : KeyIx → Nat) : List KeyIx → Option KeyIx
  | [] => none
  | k :: rest =>
    match selectKey pri rest with
    | none => some k
    | some j => if pri j < pri k then some j else some k

/-- The priority of a key as stored. -/
def priorityOf (s : State) (k : KeyIx) : Nat := s.keys[k].priority.val

/-- Selection: a key in service is given where there is none, the enable is on and the party is connected (R97). -/
def serve (pri : KeyIx → Nat) (enable connected : Bool) (f : FoldBack) : FoldBack :=
  if f.inService.isNone && enable && connected then { f with inService := selectKey pri f.list } else f

/-- A request of a key reaches a context (R98). -/
def takeRequest (pri : KeyIx → Nat) (enable connected : Bool) (k : KeyIx) (f : FoldBack) : FoldBack :=
  if !connected || f.list.contains k then f
  else
    let g := { f with list := f.list ++ [k] }
    if !enable then g
    else
      match f.inService with
      | none => serve pri enable connected g
      | some sv => if pri k < pri sv then { g with inService := some k } else g

/-- A release of a key reaches a context (R99). -/
def takeRelease (pri : KeyIx → Nat) (enable connected : Bool) (k : KeyIx) (f : FoldBack) : FoldBack :=
  if f.list.contains k then
    if f.inService = some k then serve pri enable connected { list := f.list.erase k, inService := none }
    else { f with list := f.list.erase k }
  else f

/-- A change of a listed key's priority is taken at a context (R100). -/
def reconsider (pri : KeyIx → Nat) (enable connected : Bool) (f : FoldBack) : FoldBack :=
  match f.inService with
  | none => serve pri enable connected f
  | some sv =>
    match selectKey pri f.list with
    | none => f
    | some b => if pri b < pri sv then { f with inService := some b } else f

/-- The keys a connection enters, in key-number order (R102). -/
def connectingKeys (s : State) (p : PartyIx) : List KeyIx :=
  (List.finRange 4).filter fun k => s.keys[k].active && s.keys[k].dest[p]

/-- The context of a party after a change of its state: filled at a connection, emptied at a teardown (R102, R103). -/
def foldBackAfter (s : State) (p : PartyIx) (old new : PState) : FoldBack :=
  if !old.connected && new.connected then
    serve (priorityOf s) s.parties[p].foldBack true { list := connectingKeys s p, inService := none }
  else if old.connected && !new.connected then { list := [], inService := none }
  else s.foldBacks[p]

/-! ## Echo marks (R12, R13, R129) -/

/-- The test of a mark against a delay: M - Rd lies within 1 to C, and the delay is not in BYPASS (R129). -/
def guardHolds (m : MemSize) (d : Delay) (mark : Count) : Bool :=
  d.state.on && decide (1 ≤ (mark - d.rd).toNat ∧ (mark - d.rd).toNat ≤ m.capacity)

/-- The echo mark of a party after a change of its state and programme (R12, R13). -/
def markAfter (s : State) (p : PartyIx) (old : PartyRec) (st : PState) (k : Programme) : Option Count :=
  if kindOf p = .phone ∧ old.state = .air ∧ st = .hold ∧ s.delays[k].state.on then
    if guardHolds s.memSize s.delays[k] s.delays[k].w then some s.delays[k].w else none
  else if (old.state.waiting ∧ ¬ (st.waiting ∧ k = old.programme)) ∨ k ≠ old.programme
      ∨ (old.state.connected ∧ ¬ st.connected) then none
  else old.echoMark

/-! ## Changes of a party's state (R8, R43) -/

/-- The counts of a line at a change of its state (R43). -/
def lineChange (old new : PState) (c : LineCtx) : LineCtx :=
  match old, new with
  | .idle, .ringing => { c with ringCount := 0, answerCount := 0, dropCount := 0, clearingCount := 0 }
  | .ringing, .idle => { c with ringCount := 0 }
  | .ringing, .screen =>
    { c with ringCount := 0, answerCount := 0, loopSeen := false, dropCount := 0, clearingCount := 0 }
  | .clearing, .idle => { c with clearingCount := 0 }
  | o, .clearing =>
    if o.phoneConnected then { c with answerCount := 0, loopSeen := false, dropCount := 0, clearingCount := 0 } else c
  | _, _ => c

/-- An update of the line context of a party; a codec has none. -/
def onLine (p : PartyIx) (f : LineCtx → LineCtx) (s : State) : State :=
  if h : p.val < 16 then { s with lines := s.lines.set p.val (f s.lines[p.val]) } else s

/-- The record of a party after a change of its state (R3, R8). -/
def recordAfter (s : State) (p : PartyIx) (st : PState) (k : Programme) : PartyRec :=
  { s.parties[p] with
    state := st, programme := k, changes := s.parties[p].changes + 1, echoMark := markAfter s p s.parties[p] st k }

/-- One state change, complete at its arrival (R8): the record, the fold-back context, the counts of LS, and PARTY. -/
def changeState (p : PartyIx) (st : PState) (k : Programme) (s : State) : State :=
  raise .party
    (onLine p (lineChange s.parties[p].state st)
      { s with
        parties := s.parties.set p (recordAfter s p st k)
        foldBacks := s.foldBacks.set p (foldBackAfter s p s.parties[p].state st) })

end Sys2Proof.Machine
end

