-- ==== Sys2Proof/Machine/PartyTable.lean ====
section
/-! DEFINITION. The party table (chapter 1): the seven state commands, SET PARTY, READ PARTY and READ TABLE. -/

namespace Sys2Proof.Machine

/-! ## Reply bodies (R198, R199) -/

/-- The body of a state command's reply: party index, state, programme, change count (R18, R198). -/
def stateBody (s : State) (p : PartyIx) : List Byte :=
  bytes16 p.val ++ [s.parties[p].state.code, programmeCode s.parties[p].programme, s.parties[p].changes]

/-- The body of READ PARTY and SET PARTY (R32, R199). The rules name bits 0 and 1 alone of the supervision flags, byte 17, and the
model sends its bits 7 to 2 as 0 (DESIGN CHOICE, log 33). -/
def partyBody (s : State) (p : PartyIx) : List Byte :=
  let r := s.parties[p]
  bytes16 p.val ++
    [(kindOf p).code, r.state.code, programmeCode r.programme, r.changes, r.sourceGain, r.returnGain, byte r.group.val,
      flag r.foldBack, flag r.toneMute, flag r.echoMark.isSome] ++
    bytes32 (r.echoMark.getD 0).toNat ++
    [keyCode s.foldBacks[p].inService,
      byte ((filteredFirst s p).toNat + 2 * (filteredSecond s p).toNat)]

/-- The body of READ TABLE (R33, R199). -/
def tableBody (s : State) : List Byte :=
  (List.finRange 24).flatMap fun p =>
    [s.parties[p].state.code, programmeCode s.parties[p].programme, s.parties[p].changes]

/-! ## The seven state commands (R14 to R25) -/

/-- The studio restriction: a STUDIO-k port and a party in AIR or PRIVATE on the other programme (R17). -/
def restricted (role : Role) (r : PartyRec) : Bool :=
  match role with
  | .studio k => (r.state == .air || r.state == .priv) && r.programme != k
  | .engineering | .screener => false

/-- Every role may use the command (R16). -/
def anyRole (_ : Role) (_ : Programme) : Bool := true

/-- ENGINEERING and SCREENER may use the command (R16). -/
def screeningRole (role : Role) (_ : Programme) : Bool :=
  match role with
  | .engineering | .screener => true
  | .studio _ => false

/-- ENGINEERING may use the command, and STUDIO-k where it names programme k (R16). -/
def studioRole (role : Role) (k : Programme) : Bool :=
  match role with
  | .engineering => true
  | .studio j => j == k
  | .screener => false

/-- Steps 2 to 6 of the check order, for a whole payload with an index in range: the state and programme the command gives,
or the result of the first check that fails (R15). `names` says whether the command uses its programme operand (R14),
`allows` is R16, `limited` whether R17 concerns the command, `move` the command's transition. -/
def checkState (names : Bool) (allows : Role → Programme → Bool) (limited : Bool)
    (move : Kind → PState → Option PState) (role : Role) (p : PartyIx) (r : PartyRec) (e k : Byte) :
    Except Result (PState × Programme) :=
  match PState.ofCode e, checked names (programmeOf k) r.programme with
  | some expected, some prog =>
    if !allows role prog then .error .notAllowed
    else if r.state ≠ expected then .error .stale
    else
      match move (kindOf p) r.state with
      | none => .error .illegal
      | some st => if limited && restricted role r then .error .notAllowed else .ok (st, prog)
  | _, _ => .error .illegal

/-- A state command: its checks, its state change, and its reply taken after it (R15, R18). -/
def stateCommand (names : Bool) (allows : Role → Programme → Bool) (limited : Bool)
    (move : Kind → PState → Option PState) (q : PortIx) (tag : Byte) (pl : List Byte) (s : State) : State :=
  match pl with
  | [h, l, e, k] =>
    match fin? 24 (be16 h l) with
    | none => reply q tag .illegal [] s
    | some p =>
      match checkState names allows limited move s.ports[q].role p s.parties[p] e k with
      | .error r => reply q tag r (stateBody s p) s
      | .ok (st, prog) => reply q tag .ok (stateBody (changeState p st prog s) p) (changeState p st prog s)
  | _ => reply q tag .illegal [] s

/-- ANSWER moves a phone from RINGING to SCREEN (R19). -/
def answerMove : Kind → PState → Option PState
  | .phone, .ringing => some .screen
  | _, _ => none

/-- SCREEN moves a phone from HOLD, READY or PRIVATE to SCREEN (R20). -/
def screenMove : Kind → PState → Option PState
  | .phone, .hold | .phone, .ready | .phone, .priv => some .screen
  | _, _ => none

/-- HOLD moves a phone from SCREEN, READY, PRIVATE or AIR to HOLD, a codec from PRIVATE or AIR to STANDBY (R21). -/
def holdMove : Kind → PState → Option PState
  | .phone, .screen | .phone, .ready | .phone, .priv | .phone, .air => some .hold
  | .codec, .priv | .codec, .air => some .standby
  | _, _ => none

/-- READY moves a phone from SCREEN or HOLD to READY (R22). -/
def readyMove : Kind → PState → Option PState
  | .phone, .screen | .phone, .hold => some .ready
  | _, _ => none

/-- PRIVATE moves a phone from SCREEN, HOLD, READY or AIR, and a codec from STANDBY or AIR, to PRIVATE (R23). -/
def privateMove : Kind → PState → Option PState
  | .phone, .screen | .phone, .hold | .phone, .ready | .phone, .air => some .priv
  | .codec, .standby | .codec, .air => some .priv
  | _, _ => none

/-- TAKE moves a phone from HOLD, READY or PRIVATE, and a codec from STANDBY or PRIVATE, to AIR (R24). -/
def takeMove : Kind → PState → Option PState
  | .phone, .hold | .phone, .ready | .phone, .priv => some .air
  | .codec, .standby | .codec, .priv => some .air
  | _, _ => none

/-- DROP moves a phone from SCREEN, HOLD, READY, PRIVATE or AIR to CLEARING (R25). -/
def dropMove : Kind → PState → Option PState
  | .phone, .screen | .phone, .hold | .phone, .ready | .phone, .priv | .phone, .air => some .clearing
  | _, _ => none

/-- ANSWER (R19). -/
def execAnswer (q : PortIx) (tag : Byte) (pl : List Byte) (s : State) : Outcome :=
  live s (stateCommand false anyRole false answerMove q tag pl s)

/-- SCREEN (R20). -/
def execScreen (q : PortIx) (tag : Byte) (pl : List Byte) (s : State) : Outcome :=
  live s (stateCommand false screeningRole false screenMove q tag pl s)

/-- HOLD (R21). -/
def execHold (q : PortIx) (tag : Byte) (pl : List Byte) (s : State) : Outcome :=
  live s (stateCommand false anyRole true holdMove q tag pl s)

/-- READY k (R22). -/
def execReady (q : PortIx) (tag : Byte) (pl : List Byte) (s : State) : Outcome :=
  live s (stateCommand true screeningRole false readyMove q tag pl s)

/-- PRIVATE k (R23). -/
def execPrivateTalk (q : PortIx) (tag : Byte) (pl : List Byte) (s : State) : Outcome :=
  live s (stateCommand true studioRole true privateMove q tag pl s)

/-- TAKE k (R24). -/
def execTake (q : PortIx) (tag : Byte) (pl : List Byte) (s : State) : Outcome :=
  live s (stateCommand true studioRole true takeMove q tag pl s)

/-- DROP (R25). -/
def execDrop (q : PortIx) (tag : Byte) (pl : List Byte) (s : State) : Outcome :=
  live s (stateCommand false anyRole true dropMove q tag pl s)

/-! ## SET PARTY (R28 to R31) -/

/-- The states in which SET PARTY may change the programme (R29). -/
def programmeFree : Kind → PState → Bool
  | .phone, .idle | .phone, .screen | .phone, .hold => true
  | .codec, .offline | .codec, .standby => true
  | _, _ => false

/-- The role check of SET PARTY, with the programme sent where it is selected (R28). -/
def setPartyAllowed (role : Role) (r : PartyRec) (sent : Option Programme) : Bool :=
  match role with
  | .engineering => true
  | .studio k => r.programme == k && (sent == none || sent == some k)
  | .screener => false

/-- The group stored: 9 to 255 is stored as 8, adjusted (R29). -/
def groupStored (b : Byte) : Stored (Fin 9) := (⟨min 8 b.toNat, by omega⟩, decide (8 < b.toNat))

/-- The programme stored: as sent in the states that are free for it, otherwise the current one, adjusted where they differ
(R29). -/
def programmeStored (p : PartyIx) (r : PartyRec) (sent : Programme) : Stored Programme :=
  if programmeFree (kindOf p) r.state then (sent, false) else (r.programme, sent != r.programme)

/-- The record SET PARTY stores, and whether a selected value was adjusted (R29, R30). -/
def partyStored (p : PartyIx) (r : PartyRec) (sel : Nat → Bool) (sg rg gr fb tm : Byte) (prog : Programme) :
    Stored PartyRec :=
  let sg' := store (sel 0) (gainStored sg) r.sourceGain
  let rg' := store (sel 1) (gainStored rg) r.returnGain
  let gr' := store (sel 2) (groupStored gr) r.group
  let fb' := store (sel 3) (flagStored fb) r.foldBack
  let tm' := store (sel 4) (flagStored tm) r.toneMute
  let pr' := store (sel 5) (programmeStored p r prog) r.programme
  ({ r with
      sourceGain := sg'.1, returnGain := rg'.1, group := gr'.1, foldBack := fb'.1, toneMute := tm'.1, programme := pr'.1,
      echoMark := if pr'.1 = r.programme then r.echoMark else none },
    sg'.2 || rg'.2 || gr'.2 || fb'.2 || tm'.2 || pr'.2)

/-- The context of a party whose fold-back enable takes a value (R101): a change to off ends the service, a change to on runs
selection. -/
def foldBackEnabled (s : State) (p : PartyIx) (on : Bool) : FoldBack :=
  if on = s.parties[p].foldBack then s.foldBacks[p]
  else if on then serve (priorityOf s) true s.parties[p].state.connected s.foldBacks[p]
  else { s.foldBacks[p] with inService := none }

/-- The effect of an accepted SET PARTY: the record, the change of fold-back enable at FBA, and PARTY where a stored value
changed (R30). -/
def storeParty (p : PartyIx) (r : PartyRec) (s : State) : State :=
  raiseIf (r != s.parties[p]) .party
    { s with parties := s.parties.set p r, foldBacks := s.foldBacks.set p (foldBackEnabled s p r.foldBack) }

/-- SET PARTY: the checks of R28, the store of R29 and the reply of R31. -/
def setParty (q : PortIx) (tag : Byte) (pl : List Byte) (s : State) : State :=
  match pl with
  | [h, l, sh, sl, sg, rg, gr, fb, tm, pr] =>
    match fin? 24 (be16 h l) with
    | none => reply q tag .illegal [] s
    | some p =>
      match checked (selected sh sl 5) (programmeOf pr) s.parties[p].programme with
      | none => reply q tag .illegal (partyBody s p) s
      | some prog =>
        if setPartyAllowed s.ports[q].role s.parties[p] (if selected sh sl 5 then some prog else none) then
          let r := partyStored p s.parties[p] (selected sh sl) sg rg gr fb tm prog
          reply q tag (okOr r.2) (partyBody (storeParty p r.1 s) p) (storeParty p r.1 s)
        else reply q tag .notAllowed (partyBody s p) s
  | _ => reply q tag .illegal [] s

/-- SET PARTY (R28). -/
def execSetParty (q : PortIx) (tag : Byte) (pl : List Byte) (s : State) : Outcome := live s (setParty q tag pl s)

/-! ## Reads (R32, R33) -/

/-- READ PARTY (R32). -/
def readParty (q : PortIx) (tag : Byte) (pl : List Byte) (s : State) : State :=
  match pl with
  | [h, l] =>
    match fin? 24 (be16 h l) with
    | none => reply q tag .illegal [] s
    | some p => reply q tag .ok (partyBody s p) s
  | _ => reply q tag .illegal [] s

/-- READ PARTY (R32). -/
def execReadParty (q : PortIx) (tag : Byte) (pl : List Byte) (s : State) : Outcome := live s (readParty q tag pl s)

/-- A read without operand: its body, or ILLEGAL where L is above 0. -/
def plainRead (body : State → List Byte) (q : PortIx) (tag : Byte) (pl : List Byte) (s : State) : State :=
  if pl.isEmpty then reply q tag .ok (body s) s else reply q tag .illegal [] s

/-- READ TABLE (R33). -/
def execReadTable (q : PortIx) (tag : Byte) (pl : List Byte) (s : State) : Outcome := live s (plainRead tableBody q tag pl s)

end Sys2Proof.Machine
end

