-- ==== Sys2Proof/Machine/Foldback.lean ====
section
/-! DEFINITION. Talkback and fold-back (chapter 5): the key commands, the arrivals at a party's context, and the triggers of
keys. -/

namespace Sys2Proof.Machine

/-! ## The active flag (R93) -/

/-- A key is active while a latch is set or its trigger cell output is 1 (R93). -/
def Key.wanted (k : Key) : Bool := k.latches[0] || k.latches[1] || k.latches[2] || (k.trigger.isSome && k.triggerOut)

/-- The reach of a key: its destination set while it is active (R105). -/
def Key.reach (k : Key) (p : PartyIx) : Bool := k.active && k.dest[p]

/-- What one arrival of a key does at one party's context: the release or the request it sends there, and after it the
reconsideration of a changed priority where the list then holds the key (R98, R99, R100, R105). -/
def keyTaken (pri : KeyIx → Nat) (enable connected : Bool) (k : KeyIx) (left joined changed : Bool) (f : FoldBack) : FoldBack :=
  let g :=
    if left then takeRelease pri enable connected k f
    else if joined then takeRequest pri enable connected k f
    else f
  if changed && g.list.contains k then reconsider pri enable connected g else g

/-- The context of a party after a key is stored, against the keys as stored: the key leaves or enters its reach there, or not,
and its priority changes, or not (R105). -/
def foldBackStored (k : KeyIx) (new : Key) (s : State) (p : PartyIx) : FoldBack :=
  keyTaken (priorityOf { s with keys := s.keys.set k new }) s.parties[p].foldBack s.parties[p].state.connected k
    (s.keys[k].reach p && !new.reach p) (new.reach p && !s.keys[k].reach p) (new.priority != s.keys[k].priority) s.foldBacks[p]

/-- A key stored at an arrival. At the same arrival a release reaches each party that leaves its reach, a request each party
that enters it, and a changed priority each party whose list then holds it (R93, R98, R99, R100, R105; log 8). -/
def storeKey (k : KeyIx) (new : Key) (s : State) : State :=
  { s with keys := s.keys.set k new, foldBacks := Vector.ofFn fun p : PartyIx => foldBackStored k new s p }

/-- A key stored with its latches or trigger output changed: the active flag is re-formed, and a key that goes active or
inactive sends its requests or releases (R93). -/
def reform (k : KeyIx) (new : Key) (s : State) : State := storeKey k { new with active := new.wanted } s

/-! ## KEY (R94) -/

/-- The three actions of KEY (R94). -/
def keyActionOf (b : Byte) : Option (Option Bool) :=
  match b.toNat with
  | 0 => some (some false) | 1 => some (some true) | 2 => some none | _ => none

/-- The latch byte: latches in bits 0 to 2, trigger output in bit 3, active flag in bit 4 (R200); bits 7 to 5, which R200 does not
name, as 0 (DESIGN CHOICE, log 33). -/
def latchByte (k : Key) : Byte :=
  byte (k.latches[0].toNat + 2 * k.latches[1].toNat + 4 * k.latches[2].toNat + 8 * k.triggerOut.toNat
    + 16 * k.active.toNat)

/-- The latches after an action of the port q: ON or OFF for its own latch, OFF-ALL for all three (R94). -/
def latchesAfter (q : PortIx) (action : Option Bool) (l : Vector Bool 3) : Vector Bool 3 :=
  match action with
  | some on => l.set q on
  | none => Vector.replicate 3 false

/-- KEY (R94). -/
def keyCommand (q : PortIx) (tag : Byte) (pl : List Byte) (s : State) : State :=
  match pl with
  | [n, a] =>
    match fin? 4 n.toNat, keyActionOf a with
    | some k, some action =>
      if action = none ∧ s.ports[q].role ≠ .engineering then
        reply q tag .notAllowed [byte k.val, latchByte s.keys[k]] s
      else if latchesAfter q action s.keys[k].latches = s.keys[k].latches then
        reply q tag .already [byte k.val, latchByte s.keys[k]] s
      else
        let t := reform k { s.keys[k] with latches := latchesAfter q action s.keys[k].latches } s
        reply q tag .ok [byte k.val, latchByte t.keys[k]] t
    | _, _ => reply q tag .illegal [] s
  | _ => reply q tag .illegal [] s

/-- KEY (R94). -/
def execKey (q : PortIx) (tag : Byte) (pl : List Byte) (s : State) : Outcome := live s (keyCommand q tag pl s)

/-- KEY_TRIGGER: a delivered change of the key's trigger cell output is recorded and the flag re-formed (R95). A delivery of a
cell the key no longer selects does not reach it (R105). -/
def keyTrigger (k : KeyIx) (c : CellIx) (out : Bool) (s : State) : State :=
  if s.keys[k].trigger = some c then reform k { s.keys[k] with triggerOut := out } s else s

/-- KEY_TRIGGER (R95). -/
def execKeyTrigger (k : KeyIx) (c : CellIx) (out : Bool) (s : State) : Outcome :=
  live s (keyTrigger k c out (took (.keyTrigger k c out) s))

/-! ## Arrivals at a party's context (R98 to R100) -/

/-- An arrival at a party's fold-back context, with its fold-back enable and connection as they stand (R96). -/
def atContext (f : (KeyIx → Nat) → Bool → Bool → FoldBack → FoldBack) (p : PartyIx) (s : State) : State :=
  { s with
    foldBacks := s.foldBacks.set p (f (priorityOf s) s.parties[p].foldBack s.parties[p].state.connected s.foldBacks[p]) }

/-- REQUEST, at one party (R98). -/
def execRequest (k : KeyIx) (p : PartyIx) (s : State) : Outcome :=
  live s (atContext (fun pri e c f => takeRequest pri e c k f) p s)

/-- RELEASE, at one party (R99). -/
def execRelease (k : KeyIx) (p : PartyIx) (s : State) : Outcome :=
  live s (atContext (fun pri e c f => takeRelease pri e c k f) p s)

/-- RECONSIDERATION, at one party whose list holds the key (R100). -/
def execReconsideration (k : KeyIx) (p : PartyIx) (s : State) : Outcome :=
  live s (atContext (fun pri e c f => if f.list.contains k then reconsider pri e c f else f) p s)

/-! ## SET KEY and READ KEYS (R104 to R106) -/

/-- A key's entry as READ KEYS gives it (R106, R200). -/
def keyEntry (s : State) (k : KeyIx) : List Byte :=
  [byte s.keys[k].source.val, byte s.keys[k].priority.val, s.keys[k].duck, s.keys[k].talk] ++ bytes24 (maskNat s.keys[k].dest)
    ++ [triggerCode s.keys[k].trigger, latchByte s.keys[k], byte (servingCount s k)]

/-- The present output of a new trigger cell (R105, R126, R141). Trigger cell none gives 0: R106 and R141 say so for keys and
players, and for a delay, of which R126 gives the case of a cell alone, it is the model's choice (DESIGN CHOICE, log 23). -/
def cellOutput (s : State) : Option CellIx → Bool
  | some c => s.cells[c].output
  | none => false

/-- The trigger output held after a trigger cell is stored: that cell's present output where the cell is a new one, otherwise
the output last delivered (R105, R126, R141; log 23). -/
def triggerOutAfter (s : State) (old new : Option CellIx) (held : Bool) : Bool :=
  if new = old then held else cellOutput s new

/-- The priority stored: 4 to 255 is stored as 3, adjusted (R104). -/
def priorityStored (b : Byte) : Stored (Fin 4) := (⟨min 3 b.toNat, by omega⟩, decide (3 < b.toNat))

/-- The key SET KEY stores, its active flag re-formed (R104, R105). -/
def keyStored (s : State) (k : KeyIx) (sel : Nat → Bool) (source : StudioIx) (pri duck talk : Byte) (dest : Mask 24)
    (trigger : Option CellIx) : Key :=
  let old := s.keys[k]
  let new : Key :=
    { old with
      source := source
      priority := (store (sel 1) (priorityStored pri) old.priority).1
      duck := (store (sel 2) (gainStored duck) old.duck).1
      talk := (store (sel 3) (gainStored talk) old.talk).1
      dest := if sel 4 then dest else old.dest
      trigger := trigger
      triggerOut := triggerOutAfter s old.trigger trigger old.triggerOut }
  { new with active := new.wanted }

/-- SET KEY (R104, R105). -/
def setKey (q : PortIx) (tag : Byte) (pl : List Byte) (s : State) : State :=
  match pl with
  | [n, sh, sl, src, pri, duck, talk, d2, d1, d0, trig] =>
    match fin? 4 n.toNat with
    | none => reply q tag .illegal [] s
    | some k =>
      match checked (selected sh sl 0) (fin? 16 src.toNat) s.keys[k].source,
        checked (selected sh sl 5) (triggerOf trig) s.keys[k].trigger with
      | some source, some trigger =>
        if s.ports[q].role = .engineering then
          let new := keyStored s k (selected sh sl) source pri duck talk (maskOf 24 (be24 d2 d1 d0)) trigger
          let t := storeKey k new s
          reply q tag (okOr (store (selected sh sl 1) (priorityStored pri) s.keys[k].priority).2) (keyEntry t k) t
        else reply q tag .notAllowed (keyEntry s k) s
      | _, _ => reply q tag .illegal [] s
  | _ => reply q tag .illegal [] s

/-- SET KEY (R104). -/
def execSetKey (q : PortIx) (tag : Byte) (pl : List Byte) (s : State) : Outcome := live s (setKey q tag pl s)

/-- The body of READ KEYS (R106, R200). -/
def keysBody (s : State) : List Byte := (List.finRange 4).flatMap (keyEntry s)

/-- READ KEYS (R106). -/
def execReadKeys (q : PortIx) (tag : Byte) (pl : List Byte) (s : State) : Outcome := live s (plainRead keysBody q tag pl s)

end Sys2Proof.Machine
end

