-- ==== Sys2Proof/Machine/Logic.lean ====
section
/-! DEFINITION. The logic cells (chapter 9): GPI filtering, the evaluation of cells, the delivery of their outputs, and the GPO
pins. -/

namespace Sys2Proof.Machine

/-! ## Evaluation (R168 to R173) -/

/-- The result of a cell: the truth-table entry at i2 x 4 + i1 x 2 + i0 (R170). -/
def cellResult (s : State) (c : CellIx) : Bool :=
  let x := s.cells[c]
  x.table.getLsbD ((signal s c x.in2).toNat * 4 + (signal s c x.in1).toNat * 2 + (signal s c x.in0).toNat)

/-- The filtered result of a cell (R171). -/
def filterResult (x : Cell) (result : Bool) : Bool :=
  match x.filter with
  | .none => result
  | .sync => x.held
  | .stable => if result = x.held then result else x.filtered

/-- An ordinary evaluation: filter, then edge stage (R170 to R172). -/
def evaluateCell (x : Cell) (result : Bool) : Cell :=
  let f := filterResult x result
  { x with held := result, filtered := f, previous := f, output := if x.edge then f && !x.previous else f }

/-- A restart, taken in place of an evaluation (R173). -/
def restartCell (x : Cell) (result : Bool) : Cell :=
  { x with held := x.enable && result, filtered := false, previous := false, output := false, restart := false }

/-- A cell at a period-end event (R170, R173). -/
def cellAfter (s : State) (c : CellIx) : Cell :=
  if s.cells[c].restart then restartCell s.cells[c] (cellResult s c)
  else if s.cells[c].enable then evaluateCell s.cells[c] (cellResult s c)
  else s.cells[c]

/-- The deliveries of one changed cell, one for each consumer that selects it (R174). -/
def deliveriesOf (s : State) (c : CellIx) (out : Bool) : List Instr :=
  (((List.finRange 4).filter fun k => s.keys[k].trigger == some c).map fun k => Instr.keyTrigger k c out) ++
  (((List.finRange 4).filter fun j => s.players[j].trigger == some c).map fun j => Instr.playerTrigger j c out) ++
  (((List.finRange 2).filter fun d => s.delays[d].trigger == some c).map fun d => Instr.delayTrigger d c out) ++
  ((List.finRange 8).filter fun g => s.gpos[g].selection == .cell c).map fun g => Instr.gpoDelivery g c out

/-- All eight cells evaluated together, and every change of an output delivered (R168, R174). -/
def evaluateCells (s : State) : State :=
  hand
    ((List.finRange 8).flatMap fun c =>
      if (cellAfter s c).output = s.cells[c].output then [] else deliveriesOf s c (cellAfter s c).output)
    { s with cells := Vector.ofFn fun c : CellIx => cellAfter s c }

/-- The GPI pins sampled, with GPI where a filtered value changes (R166). -/
def samplePins (pins : Vector Bool 8) (s : State) : State :=
  raiseIf ((List.finRange 8).any fun n => filtered (pushSample pins[n] s.gpis[n]) != filtered s.gpis[n]) .gpi
    { s with gpis := Vector.ofFn fun n : PinIx => pushSample pins[n] s.gpis[n] }

/-- LC_PERIOD_END (R166, R168). -/
def execLcPeriodEnd (pins : Vector Bool 8) (s : State) : Outcome := live s (evaluateCells (samplePins pins s))

/-! ## GPO pins (R175, R177) -/

/-- The level of a pin, true for high (R175). -/
def pinLevel (g : Gpo) : Bool := g.active != g.activeLow

/-- GPO_DELIVERY: a delivered change of the selected cell's output moves the pin (R175). A delivery of a cell the pin no longer
selects does not reach it (R179; DEDUCED, log 12). -/
def gpoDelivery (g : PinIx) (c : CellIx) (out : Bool) (s : State) : State :=
  if s.gpos[g].selection = .cell c then { s with gpos := s.gpos.set g { s.gpos[g] with active := out } } else s

/-- GPO_DELIVERY (R175). -/
def execGpoDelivery (g : PinIx) (c : CellIx) (out : Bool) (s : State) : Outcome :=
  live s (gpoDelivery g c out (took (.gpoDelivery g c out) s))

/-- The active value a selection gives: the cell's present output, or the constant (R177). -/
def selectedValue (s : State) : GpoSel → Bool
  | .cell c => s.cells[c].output
  | .const b => b

/-- The byte of a GPO pin: selection, polarity, active value, level (R200); bit 7, which R200 does not name, as 0 (DESIGN CHOICE,
log 33). -/
def gpoByte (g : Gpo) : Byte :=
  byte (g.selection.code.toNat + 16 * g.activeLow.toNat + 32 * g.active.toNat + 64 * (pinLevel g).toNat)

/-- SET GPO (R177). -/
def setGpo (q : PortIx) (tag : Byte) (pl : List Byte) (s : State) : State :=
  match pl with
  | [n, sh, sl, sel, pol] =>
    match fin? 8 n.toNat with
    | none => reply q tag .illegal [] s
    | some g =>
      match checked (selected sh sl 0) (gpoSelOf sel) s.gpos[g].selection,
        checked (selected sh sl 1) (polarityOf pol) s.gpos[g].activeLow with
      | some selection, some low =>
        if s.ports[q].role = .engineering then
          let x : Gpo :=
            { selection := selection, activeLow := low,
              active := if selected sh sl 0 then selectedValue s selection else s.gpos[g].active }
          reply q tag .ok [gpoByte x] { s with gpos := s.gpos.set g x }
        else reply q tag .notAllowed [gpoByte s.gpos[g]] s
      | _, _ => reply q tag .illegal [] s
  | _ => reply q tag .illegal [] s

/-- SET GPO (R177). -/
def execSetGpo (q : PortIx) (tag : Byte) (pl : List Byte) (s : State) : Outcome := live s (setGpo q tag pl s)

/-! ## SET CELL and READ LOGIC (R176, R178) -/

/-- A cell's entry as READ LOGIC gives it (R178, R200); the bits of its last two bytes that R200 does not name as 0 (DESIGN
CHOICE, log 33). -/
def cellEntry (x : Cell) : List Byte :=
  [byte x.in0.val, byte x.in1.val, byte x.in2.val, x.table, byte x.watched.val,
    byte (x.enable.toNat + 2 * x.edge.toNat + 4 * x.filter.code.toNat),
    byte (x.restart.toNat + 2 * x.held.toNat + 4 * x.filtered.toNat + 8 * x.previous.toNat + 16 * x.output.toNat)]

/-- SET CELL (R176). -/
def setCell (q : PortIx) (tag : Byte) (pl : List Byte) (s : State) : State :=
  match pl with
  | [n, sh, sl, en, i0, i1, i2, tt, f, ed, w] =>
    match fin? 8 n.toNat with
    | none => reply q tag .illegal [] s
    | some c =>
      let x := s.cells[c]
      match checked (selected sh sl 1) (fin? 46 i0.toNat) x.in0, checked (selected sh sl 2) (fin? 46 i1.toNat) x.in1,
        checked (selected sh sl 3) (fin? 46 i2.toNat) x.in2, checked (selected sh sl 5) (filterOf f) x.filter,
        checked (selected sh sl 7) (fin? 24 w.toNat) x.watched with
      | some in0, some in1, some in2, some filter, some watched =>
        if s.ports[q].role = .engineering then
          let e := store (selected sh sl 0) (flagStored en) x.enable
          let g := store (selected sh sl 6) (flagStored ed) x.edge
          let y : Cell :=
            { x with
              enable := e.1, in0 := in0, in1 := in1, in2 := in2, table := if selected sh sl 4 then tt else x.table
              filter := filter, edge := g.1, watched := watched }
          let z : Cell := { y with restart := x.restart || y != x }
          reply q tag (okOr (e.2 || g.2)) (cellEntry z) { s with cells := s.cells.set c z }
        else reply q tag .notAllowed (cellEntry x) s
      | _, _, _, _, _ => reply q tag .illegal [] s
  | _ => reply q tag .illegal [] s

/-- SET CELL (R176). -/
def execSetCell (q : PortIx) (tag : Byte) (pl : List Byte) (s : State) : Outcome := live s (setCell q tag pl s)

/-- The byte of a GPI pin: the number of samples and the filtered value (R200); bits 7 to 3, which R200 does not name, as 0
(DESIGN CHOICE, log 33). -/
def gpiByte (h : List Bool) : Byte := byte (h.length % 4 + 4 * (filtered h).toNat)

/-- A signal reported by READ LOGIC: those formed for each cell are sent as 0 (R178, R200). -/
def reported (n : SignalIx) : Bool := decide (3 ≤ n.val ∧ n.val ≠ 17 ∧ n.val ≠ 18)

/-- The six-byte field of signals, signal n at bit n (R200). -/
def signalField (s : State) : Nat :=
  ((List.finRange 46).map fun n => if reported n && signal s 0 n then 2 ^ n.val else 0).sum

/-- The body of READ LOGIC (R178, R200). -/
def logicBody (s : State) : List Byte :=
  ((List.finRange 8).map fun n => gpiByte s.gpis[n]) ++ ((List.finRange 8).flatMap fun c => cellEntry s.cells[c]) ++
    ((List.finRange 8).map fun g => gpoByte s.gpos[g]) ++ bytes16 (signalField s / 4294967296) ++ bytes32 (signalField s)

/-- READ LOGIC (R178). -/
def execReadLogic (q : PortIx) (tag : Byte) (pl : List Byte) (s : State) : Outcome := live s (plainRead logicBody q tag pl s)

end Sys2Proof.Machine
end

