-- ==== Sys2Proof/Machine/AirDelay.lean ====
section
/-! DEFINITION. The air delays and the echo guard (chapter 6): the write and read of a frame, the period-start event with its
dump progress, rebuild and guard tests, and the delay commands. -/

namespace Sys2Proof.Machine

/-! ## The write and read of a frame (R115, R120, R121) -/

/-- The rebuild ratio of a code: 2, 4, 8 or 16 (R131). -/
def ratioOf (c : Fin 4) : Nat := 2 ^ (c.val + 1)

/-- Frame i is a rebuild frame of a quiet period: (i + 1) mod r = 0 (R120, R121). -/
def rebuildFrame (d : Delay) (i : FrameIx) : Bool := d.quiet && decide ((i.val + 1) % ratioOf d.ratioInUse = 0)

/-- Frame i inserts: a quiet BUILDING period, and D still below the target (R120). -/
def inserts (d : Delay) (i : FrameIx) : Bool :=
  d.state == .building && rebuildFrame d i && decide (d.length < d.targetInUse)

/-- Frame i skips: a quiet SHRINKING period, and D still above the target (R121). -/
def skips (d : Delay) (i : FrameIx) : Bool :=
  d.state == .shrinking && rebuildFrame d i && decide (d.targetInUse < d.length)

/-- The count read in a frame: Rd, or Rd + 1 in a skip frame (R115). -/
def readCount (d : Delay) (i : FrameIx) : Count := if skips d i then d.rd + 1 else d.rd

/-- The SRAM after a write of a delay in a frame under a memory size mode; the write comes before the read (R113, R115). -/
def sramAfter (m : MemSize) (s : State) (k : Programme) (x : Sample) : List (Nat × Sample) :=
  sramWrite s.sram (wordAddr m k s.delays[k].w) x

/-- The sample read in frame i under a memory size mode, with x the frame's own input: the last one again in an insert frame, the
input where the read count has come to the count just written, and the stored word otherwise (R115). -/
def sampleRead (m : MemSize) (s : State) (k : Programme) (x : Sample) (i : FrameIx) : Sample :=
  if inserts s.delays[k] i then s.delays[k].last
  else if readCount s.delays[k] i = s.delays[k].w then x
  else sramWord (sramAfter m s k x) (wordAddr m k (readCount s.delays[k] i))

/-- The output AIRk of a frame from the sample read: faded in the dump phases (R115). -/
def airValue (st : DelayState) (x : Sample) (i : FrameIx) : Int :=
  match st with
  | .dumpOut => rnd (x.toInt * fadeOut i)
  | .dumpIn => rnd (x.toInt * fadeIn i)
  | _ => x.toInt

/-- A delay after the write and read of frame i (R115, R119). -/
def delayAfter (m : MemSize) (s : State) (k : Programme) (x : Sample) (i : FrameIx) : Delay :=
  let d := s.delays[k]
  let y := sampleRead m s k x i
  { d with
    w := d.w + 1
    rd := if inserts d i then d.rd else if skips d i then d.rd + 2 else d.rd + 1
    last := y
    peak := max d.peak (magnitude y.toInt) }

/-- Which delay wrote each word last, after a write of a delay in a frame (R112). -/
def writersAfter (m : MemSize) (s : State) (k : Programme) : List (Nat × Programme) :=
  sramWrite s.writers (wordAddr m k s.delays[k].w) k

/-- The count read in an insert frame at D above 0: the open one, if its word is one that this delay itself wrote since RESET,
since no other is ever read (R112); otherwise Rd, whose sample remains to be read (log 18). -/
def insertCount (m : MemSize) (s : State) (k : Programme) : Count :=
  let c := Config.insertFrameRead k s.delays[k].w s.delays[k].rd
  if sramRead (writersAfter m s k) (wordAddr m k c) = some k then c else s.delays[k].rd

/-- The accesses of a delay in a frame on the delay memory port: the write, then the read, omitted at D = 0 (R197). The count
read in an insert frame is open within what R112 allows (log 18). -/
def accesses (m : MemSize) (s : State) (k : Programme) (x : Sample) (i : FrameIx) : List MemAccess :=
  let d := s.delays[k]
  let addr := fun c : Count => BitVec.ofNat 22 (wordAddr m k c)
  MemAccess.write (addr d.w) x ::
    if d.rd = d.w then []
    else [.read (addr (if inserts d i then insertCount m s k else readCount d i))]

/-- DELAY_WRITE_READ: the write of the programme bus output of the frame last formed, and the read (R115), under the mode of that
frame (R113). -/
def writeRead (k : Programme) (s : State) : State :=
  let x := s.formed.buses[k.val]
  let i := s.formed.index
  { s with
    delays := s.delays.set k (delayAfter s.memInUse s k x i)
    sram := sramAfter s.memInUse s k x
    writers := writersAfter s.memInUse s k
    memPort := s.memPort.set k (accesses s.memInUse s k x i) }

/-- DELAY_WRITE_READ (R115). -/
def execDelayWriteRead (k : Programme) (s : State) : Outcome := live s (writeRead k s)

/-! ## The delay memory port (R197) -/

/-- The accesses that the port makes in the running frame: AD1's write and read, then AD2's (R197). -/
def portAccesses (s : State) : List MemAccess := s.memPort[0] ++ s.memPort[1]

/-- The lines of the delay memory port, true for high; the part drives the data lines or leaves them high-impedance (R197). -/
structure MemLines where
  mcs : Bool
  mwe : Bool
  moe : Bool
  ma : BitVec 22
  md : Option Sample
  deriving DecidableEq, Repr

/-- The lines in an access: MCS is low with the strobe of the access, MWE or MOE, and the part drives MD in a write (R197; DEDUCED
from the names of the lines, log 18). -/
def MemAccess.lines : MemAccess → MemLines
  | .write a x => { mcs := false, mwe := false, moe := true, ma := a, md := some x }
  | .read a => { mcs := false, mwe := true, moe := false, ma := a, md := none }

/-- The address lines that a mode uses; it drives the others low (R112, R197). -/
def usedLines (m : MemSize) (a : BitVec 22) : BitVec 22 := BitVec.ofNat 22 (a.toNat % (2 * m.capacity))

/-- No access has been made since RESET: the first one writes a word, and RESET leaves none listed (R115, R197; log 7). -/
def noAccessYet (s : State) : Bool := s.sram.isEmpty

/-- The lines outside an access: at RESET every strobe is high and the address lines are low, and so they stay until the first
access after its release; between accesses MCS is high, and the other strobes and the address lines in use are open (R197; log
18). No access drives the data lines in either. -/
def idleLines (s : State) : MemLines :=
  if s.inReset || noAccessYet s then { mcs := true, mwe := true, moe := true, ma := 0, md := none }
  else
    let x := Config.idleMemoryLines s.delays[0].w
    { mcs := true, mwe := x.1, moe := x.2.1, ma := usedLines s.memInUse x.2.2, md := none }

/-! ## The period-start event (R117, R119, R123 to R125) -/

/-- The quiet flag set from the peak of the period just ended; not evaluated after a period in BYPASS (R119). -/
def quietAfter (d : Delay) : Bool :=
  if d.state.on then
    if levelCode d.peak ≤ d.qEnter then true
    else if d.qLeave ≤ levelCode d.peak then false
    else d.quiet
  else d.quiet

/-- The state a delay takes from D and T (R117). -/
def stateFrom (d : Delay) : DelayState :=
  if d.state = .bypass then if d.target = 0 then .bypass else .building
  else if d.target = 0 ∧ d.length = 0 then .bypass
  else if d.length < d.target then .building
  else if d.length = d.target then .atTarget
  else .shrinking

/-- A delay that takes its state from D and T; on leaving BYPASS quiet is set false, and the target and ratio are taken
(R117, R118, R120). -/
def takeState (d : Delay) : Delay :=
  { d with
    state := stateFrom d
    quiet := if d.state = .bypass ∧ stateFrom d ≠ .bypass then false else d.quiet
    targetInUse := d.target
    ratioInUse := d.ratioCode }

/-- The jump J = min(n x S x 32, D), the whole length for S = 0 (R124). -/
def jumpOf (d : Delay) : Nat := if d.segment = 0 then d.length else min (d.dumps * d.segment * 32) d.length

/-- A delay at its period-start event: quiet, then dump progress, then state (R117, R119, R123, R124, R125). -/
def periodDelay (d : Delay) : Delay :=
  let e := { d with quiet := quietAfter d, peak := 0 }
  match d.state with
  | .dumpOut =>
    { e with rd := d.rd + BitVec.ofNat 32 (jumpOf d), lastJump := jumpOf d, dumps := 0, state := .dumpIn }
  | .dumpIn => if d.dumpPending then { e with dumpPending := false, dumps := 1, state := .dumpOut } else takeState e
  | .bypass | .building | .atTarget | .shrinking =>
    if 0 < d.dumps then { e with state := .dumpOut } else takeState e

/-- A party's record after delay k has tested its mark (R129, R130). -/
def guardTested (s : State) (k : Programme) (r : PartyRec) : PartyRec :=
  match r.echoMark with
  | some m =>
    if r.programme = k ∧ ¬ (r.state.waiting ∧ guardHolds s.memSize s.delays[k] m) then { r with echoMark := none } else r
  | none => r

/-- Every mark of programme k tested (R129). -/
def testGuards (k : Programme) (s : State) : State :=
  { s with parties := Vector.ofFn fun p : PartyIx => guardTested s k s.parties[p] }

/-- The period-start event of a delay: its own progress, the guard tests after it, and DELAY at a change of state (R117, R129,
R133). The next frame has begun, so the mode stored is in use (R113; DEDUCED, log 31). -/
def delayPeriod (k : Programme) (s : State) : State :=
  raiseIf ((periodDelay s.delays[k]).state != s.delays[k].state) .delay
    (testGuards k { s with delays := s.delays.set k (periodDelay s.delays[k]), memInUse := s.memSize })

/-- DELAY_PERIOD_START (R117). -/
def execDelayPeriodStart (k : Programme) (s : State) : Outcome := live s (delayPeriod k s)

/-- DUMP_JUMP: the period-start event that ends a DUMP_OUT period (R124); there is none in another state (log 10). -/
def execDumpJump (k : Programme) (s : State) : Outcome :=
  live s (if s.delays[k].state = .dumpOut then delayPeriod k s else s)

/-! ## Dump requests (R122, R126) -/

/-- A dump request taken by the delay's state (R122). -/
def dumpRequest (d : Delay) : Delay × Result :=
  match d.state with
  | .bypass => (d, .illegal)
  | .building | .atTarget | .shrinking =>
    if d.dumps = 0 then if d.length < 32 then (d, .illegal) else ({ d with dumps := 1 }, .ok)
    else if d.dumps < 255 then ({ d with dumps := d.dumps + 1 }, .ok)
    else (d, .already)
  | .dumpOut => if d.dumps < 255 then ({ d with dumps := d.dumps + 1 }, .ok) else (d, .already)
  | .dumpIn =>
    if d.dumpPending then (d, .already)
    else if d.length < 32 then (d, .illegal)
    else ({ d with dumpPending := true }, .ok)

/-- A delay's entry as READ DELAY gives it (R132, R200). -/
def delayEntry (s : State) (k : Programme) : List Byte :=
  let d := s.delays[k]
  [d.state.code] ++ bytes32 d.w.toNat ++ bytes32 d.rd.toNat ++ bytes32 d.length ++ bytes32 d.target ++ bytes16 d.segment ++
    [byte d.ratioCode.val, byte d.qEnter, byte d.qLeave, flag d.quiet, byte d.dumps, flag d.dumpPending] ++
    bytes32 d.lastJump ++ [d.holdFeed.code, triggerCode d.trigger, flag d.triggerOut]

/-- The body of SET DELAY and DUMP: the delay number and its entry (R200). -/
def delayBody (s : State) (k : Programme) : List Byte := programmeCode k :: delayEntry s k

/-- ENGINEERING may dump either delay, STUDIO-k delay k (R122). -/
def dumpAllowed (role : Role) (k : Programme) : Bool :=
  match role with
  | .engineering => true
  | .studio j => j == k
  | .screener => false

/-- DUMP (R122). -/
def dump (q : PortIx) (tag : Byte) (pl : List Byte) (s : State) : State :=
  match pl with
  | [n] =>
    match programmeOf n with
    | none => reply q tag .illegal [] s
    | some k =>
      if dumpAllowed s.ports[q].role k then
        let r := dumpRequest s.delays[k]
        let t := { s with delays := s.delays.set k r.1 }
        reply q tag r.2 (delayBody t k) t
      else reply q tag .notAllowed (delayBody s k) s
  | _ => reply q tag .illegal [] s

/-- DUMP (R122). -/
def execDump (q : PortIx) (tag : Byte) (pl : List Byte) (s : State) : Outcome := live s (dump q tag pl s)

/-- DELAY_TRIGGER: the new output is recorded, and a rise is a dump request without reply (R126). A delivery of a cell the
delay no longer selects does not reach it. -/
def delayTrigger (k : Programme) (c : CellIx) (out : Bool) (s : State) : State :=
  let d := s.delays[k]
  if d.trigger = some c then
    { s with
      delays := s.delays.set k
        (if !d.triggerOut && out then (dumpRequest { d with triggerOut := out }).1 else { d with triggerOut := out }) }
  else s

/-- DELAY_TRIGGER (R126). -/
def execDelayTrigger (k : Programme) (c : CellIx) (out : Bool) (s : State) : Outcome :=
  live s (delayTrigger k c out (took (.delayTrigger k c out) s))

/-! ## SET DELAY, READ DELAY, SET MEMORY SIZE (R113, R131, R132) -/

/-- The delay SET DELAY stores, and whether a value was adjusted (R131). -/
def delayStored (s : State) (k : Programme) (sel : Nat → Bool) (target segment : Nat) (ratio qe ql : Byte) (mode : HoldFeed)
    (trigger : Option CellIx) : Stored Delay :=
  let d := s.delays[k]
  let t := store (sel 0) (32 * min target s.memSize.targetMax, decide (s.memSize.targetMax < target)) d.target
  let g := store (sel 1) (clamp 0 65534 segment) d.segment
  let r := store (sel 2) ((⟨min 3 ratio.toNat, by omega⟩ : Fin 4), decide (3 < ratio.toNat)) d.ratioCode
  let e := store (sel 3) (clamp 0 14 qe.toNat) d.qEnter
  let l := store (sel 4) (clamp 0 15 ql.toNat) d.qLeave
  ({ d with
      target := t.1, segment := g.1, ratioCode := r.1, qEnter := e.1
      qLeave := if l.1 ≤ e.1 then e.1 + 1 else l.1
      holdFeed := mode, trigger := trigger
      triggerOut := triggerOutAfter s d.trigger trigger d.triggerOut },
    t.2 || g.2 || r.2 || e.2 || l.2 || decide (l.1 ≤ e.1))

/-- SET DELAY (R131). -/
def setDelay (q : PortIx) (tag : Byte) (pl : List Byte) (s : State) : State :=
  match pl with
  | [n, sh, sl, t1, t0, g1, g0, ratio, qe, ql, hm, trig] =>
    match programmeOf n with
    | none => reply q tag .illegal [] s
    | some k =>
      match checked (selected sh sl 5) (holdFeedOf hm) s.delays[k].holdFeed,
        checked (selected sh sl 6) (triggerOf trig) s.delays[k].trigger with
      | some mode, some trigger =>
        if s.ports[q].role = .engineering then
          let r := delayStored s k (selected sh sl) (be16 t1 t0) (be16 g1 g0) ratio qe ql mode trigger
          let t := { s with delays := s.delays.set k r.1 }
          reply q tag (okOr r.2) (delayBody t k) t
        else reply q tag .notAllowed (delayBody s k) s
      | _, _ => reply q tag .illegal [] s
  | _ => reply q tag .illegal [] s

/-- SET DELAY (R131). -/
def execSetDelay (q : PortIx) (tag : Byte) (pl : List Byte) (s : State) : Outcome := live s (setDelay q tag pl s)

/-- The body of READ DELAY: the mode code and both entries (R132, R200). -/
def delaysBody (s : State) : List Byte := s.memSize.code :: (delayEntry s 0 ++ delayEntry s 1)

/-- READ DELAY (R132). -/
def execReadDelay (q : PortIx) (tag : Byte) (pl : List Byte) (s : State) : Outcome := live s (plainRead delaysBody q tag pl s)

/-- A target brought down to the target maximum of a mode (R113). -/
def lowerTarget (m : MemSize) (d : Delay) : Delay := { d with target := min d.target (32 * m.targetMax) }

/-- SET MEMORY SIZE: the mode is stored, and the frame that runs keeps its own (R113; log 31). -/
def setMemorySize (q : PortIx) (tag : Byte) (pl : List Byte) (s : State) : State :=
  match pl with
  | [c] =>
    match memSizeOf c with
    | none => reply q tag .illegal [] s
    | some m =>
      if s.ports[q].role ≠ .engineering then reply q tag .notAllowed [s.memSize.code] s
      else if s.delays[0].state.on || s.delays[1].state.on then reply q tag .busy [s.memSize.code] s
      else
        reply q tag
          (okOr (decide (32 * m.targetMax < s.delays[0].target ∨ 32 * m.targetMax < s.delays[1].target))) [m.code]
          { s with memSize := m, delays := Vector.ofFn fun k : Programme => lowerTarget m s.delays[k] }
  | _ => reply q tag .illegal [] s

/-- SET MEMORY SIZE (R113). -/
def execSetMemorySize (q : PortIx) (tag : Byte) (pl : List Byte) (s : State) : Outcome := live s (setMemorySize q tag pl s)

end Sys2Proof.Machine
end

