-- ==== Sys2Proof/Machine/Clock.lean ====
section
/-! DEFINITION. The Clock Unit (R194 to R196): the judgement of the reference, the lock states, and the realign dip. -/

namespace Sys2Proof.Machine

/-- The reference is valid with 31 to 33 edges in the period (R194). -/
def edgesValid (edges : Nat) : Bool := decide (31 ≤ edges ∧ edges ≤ 33)

/-- The Clock Unit after a judgement, and whether CLOCK is raised (R194). The fade-in of the period just ended is over, and a
loss judged at the end of the final RELOCK period owes one to the next (R195). -/
def judged (c : Clock) (valid : Bool) : Clock × Bool :=
  let d := { c with fadeInOwed := false, firstLocked := false }
  match c.lock with
  | .freeRun => if valid then ({ d with lock := .relock, settle := 2 ^ c.exponent }, false) else (d, false)
  | .relock =>
    if valid then
      if c.settle ≤ 1 then ({ d with lock := .locked, settle := 0, firstLocked := true }, true)
      else ({ d with settle := c.settle - 1 }, false)
    else ({ d with lock := .freeRun, settle := 0, fadeInOwed := decide (c.settle ≤ 1) }, true)
  | .locked => if valid then (d, false) else ({ d with lock := .freeRun }, true)

/-- The judgement event of CU (R194). -/
def judge (edges : Nat) (s : State) : State :=
  raiseIf (judged s.clock (edgesValid edges)).2 .clock { s with clock := (judged s.clock (edgesValid edges)).1 }

/-- JUDGEMENT (R194). -/
def execJudgement (edges : Nat) (s : State) : Outcome := live s (judge edges s)

/-- The judgement at the end of the final RELOCK period finds the reference valid. -/
def realignDue (c : Clock) (edges : Nat) : Bool := c.lock == .relock && decide (c.settle ≤ 1) && edgesValid edges

/-- REALIGN: the judgement that enters LOCKED (R194); there is none where it is not due (log 10). -/
def execRealign (edges : Nat) (s : State) : Outcome := live s (if realignDue s.clock edges then judge edges s else s)

/-- The coefficient of the realign dip at frame i (R195). -/
def dipCoef (c : Clock) (i : FrameIx) : Int :=
  if c.lock = .relock ∧ c.settle = 1 then fadeOut i
  else if c.firstLocked ∨ c.fadeInOwed then fadeIn i
  else 16384

/-- SET CLOCK: the settle exponent, kept within 8 to 12 (R196). -/
def setClock (q : PortIx) (tag : Byte) (pl : List Byte) (s : State) : State :=
  match pl with
  | [x] =>
    if s.ports[q].role = .engineering then
      reply q tag (okOr (clamp 8 12 x.toNat).2) [byte (clamp 8 12 x.toNat).1, s.clock.lock.code]
        { s with clock := { s.clock with exponent := (clamp 8 12 x.toNat).1 } }
    else reply q tag .notAllowed [] s
  | _ => reply q tag .illegal [] s

/-- SET CLOCK (R196). -/
def execSetClock (q : PortIx) (tag : Byte) (pl : List Byte) (s : State) : Outcome := live s (setClock q tag pl s)

end Sys2Proof.Machine
end

