-- ==== Sys2Proof/Machine/Metering.lean ====
section
/-! DEFINITION. The Level Monitor (chapter 8): measurements, clip flags, supervisors and their commands. -/

namespace Sys2Proof.Machine

/-! ## Supervisors (R161 to R163) -/

/-- A code is bad for a supervisor: at or beyond its threshold (R161). -/
def Sup.bad (x : Sup) (c : Nat) : Bool :=
  match x.mode with
  | .silence => decide (c ≤ x.threshold)
  | .overload => decide (x.threshold ≤ c)

/-- A code has reached the exit level (R160, R161). -/
def Sup.leaves (x : Sup) (c : Nat) : Bool :=
  match x.mode with
  | .silence => decide (x.threshold + x.hyst ≤ c)
  | .overload => decide (c ≤ x.threshold - x.hyst)

/-- A supervisor evaluated on a new code; a disabled one is not evaluated (R161). -/
def supAfter (x : Sup) (c : Nat) : Sup :=
  if !x.enable then x
  else if x.alarm then if x.leaves c then { x with alarm := false, run := 0 } else x
  else if x.bad c then
    if x.count ≤ x.run + 1 then { x with alarm := true, run := x.count } else { x with run := x.run + 1 }
  else { x with run := 0 }

/-! ## Measurements (R154, R155) -/

/-- A measurement begins: accumulators 0, the window latched, 2^(w-5) periods to run (R154). -/
def beginMeasurement (s : State) : State :=
  { s with
    meter := { s.meter with
      phase := .measuring, windowInUse := s.meter.window, periodsLeft := 2 ^ (s.meter.window - 5) }
    points := Vector.ofFn fun n : PointIx => { s.points[n] with acc := 0 } }

/-- The level code of the mean of a window (R154). -/
def meanCode (s : State) (n : PointIx) : Nat := levelCode (s.points[n].acc / 2 ^ s.meter.windowInUse)

/-- A measurement completes: codes and valid flags, the measurement count, and the supervisors on the new codes, with
SUPERVISE where one changes its state (R154, R161). -/
def completeMeasurement (s : State) : State :=
  raiseIf ((List.finRange 8).any fun n => (supAfter s.sups[n] (meanCode s s.sups[n].point)).alarm != s.sups[n].alarm)
    .supervise
    { s with
      points := Vector.ofFn fun n : PointIx => { s.points[n] with code := meanCode s n, valid := true }
      meter := { s.meter with measurements := s.meter.measurements + 1 }
      sups := Vector.ofFn fun n : SupIx => supAfter s.sups[n] (meanCode s s.sups[n].point) }

/-- Metering stops (R155). -/
def stopMetering (s : State) : State := { s with meter := { s.meter with phase := .stopped, periodsLeft := 0 } }

/-- A wait of P - 1 windows begins (R155). -/
def beginWait (s : State) : State :=
  { s with
    meter := { s.meter with phase := .waiting, periodsLeft := (s.meter.repeats - 1) * 2 ^ (s.meter.window - 5) } }

/-- The phase after a completed measurement, from the mode stored (R155). -/
def afterMeasurement (s : State) : State :=
  match s.meter.mode with
  | .off => stopMetering s
  | .continuous => beginMeasurement s
  | .periodic => beginWait s

/-- One period fewer. -/
def countPeriod (s : State) : State := { s with meter := { s.meter with periodsLeft := s.meter.periodsLeft - 1 } }

/-- The period-start event of LM (R154, R155). -/
def meterPeriod (s : State) : State :=
  match s.meter.phase with
  | .stopped =>
    match s.meter.mode with
    | .off => s
    | .continuous | .periodic => beginMeasurement s
  | .measuring => if s.meter.periodsLeft ≤ 1 then afterMeasurement (completeMeasurement s) else countPeriod s
  | .waiting =>
    match s.meter.mode with
    | .off => stopMetering s
    | .continuous => beginMeasurement s
    | .periodic => if s.meter.periodsLeft ≤ 1 then beginMeasurement s else countPeriod s

/-- METER_PERIOD_START (R155). -/
def execMeterPeriodStart (s : State) : Outcome := live s (meterPeriod s)

/-- A window ends at the next event. -/
def measurementDue (m : Meter) : Bool := m.phase == .measuring && decide (m.periodsLeft ≤ 1)

/-- MEASUREMENT_COMPLETE: the period-start event at which periods left reaches 0 (R154); there is none otherwise (log 10). -/
def execMeasurementComplete (s : State) : Outcome := live s (if measurementDue s.meter then meterPeriod s else s)

/-- A PERIODIC wait ends at the next event. -/
def waitDue (m : Meter) : Bool := m.phase == .waiting && m.mode == .periodic && decide (m.periodsLeft ≤ 1)

/-- WAITING_END: the period-start event that ends a PERIODIC wait (R155); there is none otherwise (log 10). -/
def execWaitingEnd (s : State) : Outcome := live s (if waitDue s.meter then meterPeriod s else s)

/-! ## SET METERING and READ METERS (R156, R164) -/

/-- The metering part of READ METERS (R164, R200). -/
def meterBody (s : State) : List Byte :=
  [s.meter.mode.code, byte s.meter.window, byte s.meter.repeats, s.meter.phase.code, flag (s.meter.phase == .measuring),
    byte s.meter.windowInUse] ++ bytes16 s.meter.periodsLeft ++ [s.meter.measurements]

/-- SET METERING (R156). -/
def setMetering (q : PortIx) (tag : Byte) (pl : List Byte) (s : State) : State :=
  match pl with
  | [sh, sl, m, w, r] =>
    match checked (selected sh sl 0) (meterModeOf m) s.meter.mode with
    | none => reply q tag .illegal [] s
    | some mode =>
      if s.ports[q].role = .engineering then
        let w' := store (selected sh sl 1) (clamp 6 12 w.toNat) s.meter.window
        let r' := store (selected sh sl 2) (clamp 2 255 r.toNat) s.meter.repeats
        let starts := s.meter.mode == .off && mode != .off
        let t := { s with
          meter := { s.meter with mode := mode, window := w'.1, repeats := r'.1 }
          points := Vector.ofFn fun n : PointIx => { s.points[n] with valid := s.points[n].valid && !starts } }
        reply q tag (okOr (w'.2 || r'.2)) (meterBody t) t
      else reply q tag .notAllowed (meterBody s) s
  | _ => reply q tag .illegal [] s

/-- SET METERING (R156). -/
def execSetMetering (q : PortIx) (tag : Byte) (pl : List Byte) (s : State) : Outcome := live s (setMetering q tag pl s)

/-- The byte of a meter point: code, valid, clip (R200); bits 7 and 6, which R200 does not name, as 0 (DESIGN CHOICE, log 33). -/
def pointByte (x : Point) : Byte := byte (x.code % 16 + 16 * x.valid.toNat + 32 * x.clip.toNat)

/-- The body of READ METERS (R164, R200). -/
def metersBody (s : State) : List Byte := meterBody s ++ (List.finRange 71).map fun n => pointByte s.points[n]

/-- READ METERS (R164). -/
def execReadMeters (q : PortIx) (tag : Byte) (pl : List Byte) (s : State) : Outcome := live s (plainRead metersBody q tag pl s)

/-! ## CLEAR CLIPS (R159) -/

/-- The clip flags of all points, eight to a byte (R200). -/
def clipBody (s : State) : List Byte :=
  (List.range 9).map fun b =>
    byte (((List.finRange 71).map fun n => if n.val / 8 = b ∧ s.points[n].clip then 2 ^ (n.val % 8) else 0).sum)

/-- ENGINEERING and the studios may clear clip flags (R159). -/
def clipRole (r : Role) : Bool :=
  match r with
  | .engineering | .studio _ => true
  | .screener => false

/-- CLEAR CLIPS (R159). -/
def clearClips (q : PortIx) (tag : Byte) (pl : List Byte) (s : State) : State :=
  match pl with
  | [first, n] =>
    if first.toNat ≤ 70 ∧ 1 ≤ n.toNat ∧ n.toNat ≤ 71 ∧ first.toNat + n.toNat ≤ 71 then
      if clipRole s.ports[q].role then
        let t := { s with
          points := Vector.ofFn fun j : PointIx =>
            if first.toNat ≤ j.val ∧ j.val < first.toNat + n.toNat then { s.points[j] with clip := false }
            else s.points[j] }
        reply q tag .ok (clipBody t) t
      else reply q tag .notAllowed (clipBody s) s
    else reply q tag .illegal [] s
  | _ => reply q tag .illegal [] s

/-- CLEAR CLIPS (R159). -/
def execClearClips (q : PortIx) (tag : Byte) (pl : List Byte) (s : State) : Outcome := live s (clearClips q tag pl s)

/-! ## SET SUPERVISOR and READ SUPERVISORS (R162, R163, R165) -/

/-- A supervisor's entry as READ SUPERVISORS gives it (R165); NORMAL is sent as 0, ALARM as 1 (log 19). -/
def supEntry (s : State) (n : SupIx) : List Byte :=
  let x := s.sups[n]
  [flag x.enable, byte x.point.val, x.mode.code, byte x.threshold, byte x.count, byte x.hyst, flag x.alarm, byte x.run]

/-- The threshold brought into the range of a mode (R162). -/
def thresholdIn (m : SupMode) (t : Nat) : Stored Nat :=
  match m with
  | .silence => clamp 0 14 t
  | .overload => clamp 1 15 t

/-- The largest hysteresis a threshold leaves room for (R162). -/
def hystRoom (m : SupMode) (t : Nat) : Nat :=
  match m with
  | .silence => 15 - t
  | .overload => t

/-- The hysteresis brought into range (R162). -/
def hystIn (m : SupMode) (t h : Nat) : Stored Nat :=
  (min (hystRoom m t) (clamp 1 3 h).1, (clamp 1 3 h).2 || decide (hystRoom m t < (clamp 1 3 h).1))

/-- The point stored: 71 to 255 is stored as 70, adjusted (R162). -/
def pointStored (b : Byte) : Stored PointIx := (⟨min 70 b.toNat, by omega⟩, decide (70 < b.toNat))

/-- The settings a SET SUPERVISOR stores, the whole supervisor brought into range, and whether a value was adjusted (R162). -/
def supStored (x : Sup) (sel : Nat → Bool) (en pt : Byte) (mode : SupMode) (th k h : Byte) : Stored Sup :=
  let e := store (sel 0) (flagStored en) x.enable
  let p := store (sel 1) (pointStored pt) x.point
  let t := thresholdIn mode (if sel 3 then th.toNat else x.threshold)
  let c := clamp 1 15 (if sel 4 then k.toNat else x.count)
  let y := hystIn mode t.1 (if sel 5 then h.toNat else x.hyst)
  ({ x with enable := e.1, point := p.1, mode := mode, threshold := t.1, count := c.1, hyst := y.1 },
    e.2 || p.2 || t.2 || c.2 || y.2)

/-- A supervisor restarts where its point, mode, threshold or K changes, or its enable goes off (R163). -/
def supRestarts (old new : Sup) : Bool :=
  old.point != new.point || old.mode != new.mode || old.threshold != new.threshold || old.count != new.count
    || (old.enable && !new.enable)

/-- The supervisor after a store, restarted where the store calls for it (R163). -/
def supRestarted (old new : Sup) : Sup := if supRestarts old new then { new with alarm := false, run := 0 } else new

/-- SET SUPERVISOR (R162, R163). -/
def setSupervisor (q : PortIx) (tag : Byte) (pl : List Byte) (s : State) : State :=
  match pl with
  | [n, sh, sl, en, pt, m, th, k, h] =>
    match fin? 8 n.toNat with
    | none => reply q tag .illegal [] s
    | some i =>
      match checked (selected sh sl 2) (supModeOf m) s.sups[i].mode with
      | none => reply q tag .illegal [] s
      | some mode =>
        if s.ports[q].role = .engineering then
          let r := supStored s.sups[i] (selected sh sl) en pt mode th k h
          let t := raiseIf (s.sups[i].alarm && supRestarts s.sups[i] r.1) .supervise
            { s with sups := s.sups.set i (supRestarted s.sups[i] r.1) }
          reply q tag (okOr r.2) (supEntry t i) t
        else reply q tag .notAllowed (supEntry s i) s
  | _ => reply q tag .illegal [] s

/-- SET SUPERVISOR (R162). -/
def execSetSupervisor (q : PortIx) (tag : Byte) (pl : List Byte) (s : State) : Outcome := live s (setSupervisor q tag pl s)

/-- The body of READ SUPERVISORS (R165). -/
def supsBody (s : State) : List Byte := (List.finRange 8).flatMap (supEntry s)

/-- READ SUPERVISORS (R165). -/
def execReadSupervisors (q : PortIx) (tag : Byte) (pl : List Byte) (s : State) : Outcome :=
  live s (plainRead supsBody q tag pl s)

end Sys2Proof.Machine
end

