-- ==== Sys2Proof/Machine/Tones.lean ====
section
/-! DEFINITION. The tone players (chapter 7): tone memory, players, their commands, triggers and period-start events, the
waveform, and the tone routes. -/

namespace Sys2Proof.Machine

/-! ## Tone memory (R136 to R139) -/

/-- A step entry of the tone memory. -/
def stepAt (m : Vector Step 256) (a : Byte) : Step := m[a.toNat]'a.isLt

/-- A step as two bytes: END, level and pitch index, then the length (R198); in a reply the two bits above the length, which R198
has ignored in a command, as 0 (DESIGN CHOICE, log 33). -/
def stepBytes (x : Step) : List Byte :=
  [byte (x.last.toNat * 128 + x.level.val * 32 + x.pitch.val), byte x.length]

/-- A step read from two bytes, a length of 0 stored as 1 and adjusted (R138, R198). -/
def stepOf (a b : Byte) : Stored Step :=
  ({ pitch := ⟨a.toNat % 32, by omega⟩, length := max 1 (b.toNat % 64), level := ⟨a.toNat / 32 % 4, by omega⟩,
     last := a.getLsbD 7 },
    decide (b.toNat % 64 = 0))

/-- A pitch increment read from two bytes, kept within 1 to 16384 (R138). -/
def pitchOf (a b : Byte) : Stored Nat := clamp 1 16384 (be16 a b)

/-- The two-byte entries of a list, none for an odd length. -/
def pairs {α : Type} (f : Byte → Byte → α) : List Byte → Option (List α)
  | [] => some []
  | [_] => none
  | a :: b :: rest => (pairs f rest).map (f a b :: ·)

/-- Steps stored at consecutive addresses, 255 going on to 0 (R138). -/
def storeSteps (m : Vector Step 256) (a : Byte) : List Step → Vector Step 256
  | [] => m
  | x :: rest => storeSteps (m.set a.toNat x a.isLt) (a + 1) rest

/-- Increments stored at consecutive indexes, 31 going on to 0 (R138). -/
def storePitches (m : Vector Nat 32) (a : Fin 32) : List Nat → Vector Nat 32
  | [] => m
  | x :: rest => storePitches (m.set a x) (a + 1) rest

/-- The body of a read of n steps from an address (R139, R198). -/
def stepsBody (s : State) (a : Byte) (n : Nat) : List Byte :=
  [0, a, byte n] ++ (List.range n).flatMap fun j => stepBytes (stepAt s.steps (a + BitVec.ofNat 8 j))

/-- The body of a read of n increments from an index (R139, R198). -/
def pitchesBody (s : State) (a : Fin 32) (n : Nat) : List Byte :=
  [1, byte a.val, byte n] ++ (List.range n).flatMap fun j => bytes16 s.pitches[a + Fin.ofNat 32 j]

/-- Some player is PLAYING or STOPPING (R138). -/
def anyBusy (s : State) : Bool := (List.finRange 4).any fun j => s.players[j].state != .idle

/-- WRITE STEPS (R138). -/
def writeSteps (q : PortIx) (tag : Byte) (pl : List Byte) (s : State) : State :=
  match pl with
  | a :: rest =>
    match pairs stepOf rest with
    | some xs =>
      if 1 ≤ xs.length ∧ xs.length ≤ 60 then
        if s.ports[q].role ≠ .engineering then reply q tag .notAllowed (stepsBody s a xs.length) s
        else if anyBusy s then reply q tag .busy (stepsBody s a xs.length) s
        else
          let t := { s with steps := storeSteps s.steps a (xs.map Prod.fst) }
          reply q tag (okOr (xs.any Prod.snd)) (stepsBody t a xs.length) t
      else reply q tag .illegal [] s
    | none => reply q tag .illegal [] s
  | [] => reply q tag .illegal [] s

/-- WRITE STEPS (R138). -/
def execWriteSteps (q : PortIx) (tag : Byte) (pl : List Byte) (s : State) : Outcome := live s (writeSteps q tag pl s)

/-- WRITE PITCHES (R138). -/
def writePitches (q : PortIx) (tag : Byte) (pl : List Byte) (s : State) : State :=
  match pl with
  | a :: rest =>
    match fin? 32 a.toNat, pairs pitchOf rest with
    | some i, some xs =>
      if 1 ≤ xs.length ∧ xs.length ≤ 32 then
        if s.ports[q].role ≠ .engineering then reply q tag .notAllowed (pitchesBody s i xs.length) s
        else if anyBusy s then reply q tag .busy (pitchesBody s i xs.length) s
        else
          let t := { s with pitches := storePitches s.pitches i (xs.map Prod.fst) }
          reply q tag (okOr (xs.any Prod.snd)) (pitchesBody t i xs.length) t
      else reply q tag .illegal [] s
    | _, _ => reply q tag .illegal [] s
  | [] => reply q tag .illegal [] s

/-- WRITE PITCHES (R138). -/
def execWritePitches (q : PortIx) (tag : Byte) (pl : List Byte) (s : State) : Outcome := live s (writePitches q tag pl s)

/-- READ TONE MEMORY (R139). -/
def readToneMemory (q : PortIx) (tag : Byte) (pl : List Byte) (s : State) : State :=
  match pl with
  | [sel, a, n] =>
    if sel = 0 then
      if 1 ≤ n.toNat ∧ n.toNat ≤ 60 then reply q tag .ok (stepsBody s a n.toNat) s else reply q tag .illegal [] s
    else if sel = 1 then
      match fin? 32 a.toNat with
      | some i =>
        if 1 ≤ n.toNat ∧ n.toNat ≤ 32 then reply q tag .ok (pitchesBody s i n.toNat) s else reply q tag .illegal [] s
      | none => reply q tag .illegal [] s
    else reply q tag .illegal [] s
  | _ => reply q tag .illegal [] s

/-- READ TONE MEMORY (R139). -/
def execReadToneMemory (q : PortIx) (tag : Byte) (pl : List Byte) (s : State) : Outcome :=
  live s (readToneMemory q tag pl s)

/-! ## START, STOP and ABORT (R143 to R145) -/

/-- START taken by the player's state (R143). -/
def startPlayer (x : Player) : Player × Result :=
  match x.state with
  | .idle =>
    ({ x with
        state := .playing, latchedStart := x.start, latchedTick := x.tick, stepPending := true, remaining := 0 }, .ok)
  | .playing => if x.abort = .clear then (x, .already) else (x, .busy)
  | .stopping => if x.abort = .clear then ({ x with state := .playing }, .ok) else (x, .busy)

/-- STOP taken by the player's state (R144). -/
def stopPlayer (x : Player) : Player × Result :=
  match x.state with
  | .playing => if x.abort = .clear then ({ x with state := .stopping }, .ok) else (x, .already)
  | .idle | .stopping => (x, .already)

/-- ABORT taken by the player's state (R145). -/
def abortPlayer (x : Player) : Player × Result :=
  match x.state with
  | .idle => (x, .already)
  | .playing | .stopping => if x.abort = .clear then ({ x with abort := .requested }, .ok) else (x, .already)

/-- A player's entry as READ PLAYERS gives it (R149). -/
def playerEntry (s : State) (j : PlayerIx) : List Byte :=
  let x := s.players[j]
  [x.start, byte x.tick, x.mode.code, triggerCode x.trigger, flag x.triggerOut, x.state.code, x.abort.code,
    flag x.stepPending, x.latchedStart, byte x.latchedTick, x.stepAddr] ++ bytes16 x.remaining

/-- A command of one player, which every role may use (R143 to R145). The rules give the player's entry where the player number
was in range, and do not say whether a payload of wrong length can hold one: it is answered without payload (DESIGN CHOICE,
log 32). -/
def playerCommand (f : Player → Player × Result) (q : PortIx) (tag : Byte) (pl : List Byte) (s : State) : State :=
  match pl with
  | [n] =>
    match fin? 4 n.toNat with
    | none => reply q tag .illegal [] s
    | some j =>
      let t := { s with players := s.players.set j (f s.players[j]).1 }
      reply q tag (f s.players[j]).2 (playerEntry t j) t
  | _ => reply q tag .illegal [] s

/-- START (R143). -/
def execStart (q : PortIx) (tag : Byte) (pl : List Byte) (s : State) : Outcome := live s (playerCommand startPlayer q tag pl s)

/-- STOP (R144). -/
def execStop (q : PortIx) (tag : Byte) (pl : List Byte) (s : State) : Outcome := live s (playerCommand stopPlayer q tag pl s)

/-- ABORT (R145). -/
def execAbort (q : PortIx) (tag : Byte) (pl : List Byte) (s : State) : Outcome := live s (playerCommand abortPlayer q tag pl s)

/-- A player at a delivered change of its trigger cell output: a rise is a START, a fall in CONTINUOUS mode a STOP (R146). -/
def triggeredPlayer (out : Bool) (x : Player) : Player :=
  let y := { x with triggerOut := out }
  if !x.triggerOut && out then (startPlayer y).1
  else if x.triggerOut && !out && x.mode == .continuous then (stopPlayer y).1
  else y

/-- PLAYER_TRIGGER (R146). A delivery of a cell the player no longer selects does not reach it. -/
def playerTrigger (j : PlayerIx) (c : CellIx) (out : Bool) (s : State) : State :=
  if s.players[j].trigger = some c then { s with players := s.players.set j (triggeredPlayer out s.players[j]) } else s

/-- PLAYER_TRIGGER (R146). -/
def execPlayerTrigger (j : PlayerIx) (c : CellIx) (out : Bool) (s : State) : Outcome :=
  live s (playerTrigger j c out (took (.playerTrigger j c out) s))

/-! ## SET PLAYER and READ PLAYERS (R141, R149) -/

/-- SET PLAYER (R141). -/
def setPlayer (q : PortIx) (tag : Byte) (pl : List Byte) (s : State) : State :=
  match pl with
  | [n, sh, sl, a, tick, m, trig] =>
    match fin? 4 n.toNat with
    | none => reply q tag .illegal [] s
    | some j =>
      match checked (selected sh sl 2) (playModeOf m) s.players[j].mode,
        checked (selected sh sl 3) (triggerOf trig) s.players[j].trigger with
      | some mode, some trigger =>
        if s.ports[q].role = .engineering then
          let x := s.players[j]
          let tk := store (selected sh sl 1) (clamp 1 255 tick.toNat) x.tick
          let y : Player :=
            { x with
              start := if selected sh sl 0 then a else x.start
              tick := tk.1
              mode := mode
              trigger := trigger
              triggerOut := triggerOutAfter s x.trigger trigger x.triggerOut }
          let t := { s with players := s.players.set j y }
          reply q tag (okOr tk.2) (playerEntry t j) t
        else reply q tag .notAllowed (playerEntry s j) s
      | _, _ => reply q tag .illegal [] s
  | _ => reply q tag .illegal [] s

/-- SET PLAYER (R141). -/
def execSetPlayer (q : PortIx) (tag : Byte) (pl : List Byte) (s : State) : Outcome := live s (setPlayer q tag pl s)

/-- The body of READ PLAYERS (R149). -/
def playersBody (s : State) : List Byte := (List.finRange 4).flatMap (playerEntry s)

/-- READ PLAYERS (R149). -/
def execReadPlayers (q : PortIx) (tag : Byte) (pl : List Byte) (s : State) : Outcome :=
  live s (plainRead playersBody q tag pl s)

/-! ## The player's period start (R142, R145) -/

/-- A player begins the step at an address (R142). -/
def beginStep (m : Vector Step 256) (a : Byte) (x : Player) : Player :=
  { x with
    stepAddr := a, current := stepAt m a, remaining := (stepAt m a).length * x.latchedTick, phase := 0, stepPending := false }

/-- A player goes IDLE (R142). -/
def endPlay (x : Player) : Player := { x with state := .idle, remaining := 0, stepPending := false, abort := .clear }

/-- What a player does when its step is complete (R142). -/
def completeStep (m : Vector Step 256) (x : Player) : Player :=
  if x.state = .stopping then endPlay x
  else if x.current.last then
    match x.mode with
    | .oneshot => endPlay x
    | .continuous => beginStep m x.latchedStart x
  else beginStep m (x.stepAddr + 1) x

/-- The step progress of a busy player (R142). -/
def stepProgress (m : Vector Step 256) (x : Player) : Player :=
  if x.stepPending then if x.state = .stopping then endPlay x else beginStep m x.latchedStart x
  else if x.remaining ≤ 1 then completeStep m x
  else { x with remaining := x.remaining - 1 }

/-- A requested abort of a player still busy becomes fading (R145). -/
def takeAbort (x : Player) : Player :=
  if x.state ≠ .idle ∧ x.abort = .requested then { x with abort := .fading } else x

/-- A player at its period-start event (R142, R145). -/
def periodPlayer (m : Vector Step 256) (x : Player) : Player :=
  if x.state = .idle then x
  else if x.abort = .fading then endPlay x
  else takeAbort (stepProgress m x)

/-- The period-start event of a player, with TONE where it goes IDLE (R142, R150). -/
def playerPeriod (j : PlayerIx) (s : State) : State :=
  raiseIf (s.players[j].state != .idle && (periodPlayer s.steps s.players[j]).state == .idle) .tone
    { s with players := s.players.set j (periodPlayer s.steps s.players[j]) }

/-- PLAYER_PERIOD_START (R142). -/
def execPlayerPeriodStart (j : PlayerIx) (s : State) : Outcome := live s (playerPeriod j s)

/-- A step of the player completes at its next event. -/
def stepDue (x : Player) : Bool :=
  x.state != .idle && x.abort != .fading && !x.stepPending && decide (x.remaining ≤ 1)

/-- STEP_COMPLETE: the period-start event at which remaining reaches 0 (R142); there is none where it does not (log 10). -/
def execStepComplete (j : PlayerIx) (s : State) : Outcome := live s (if stepDue s.players[j] then playerPeriod j s else s)

/-- The fade period of an abort ends at the player's next event. -/
def fadeDue (x : Player) : Bool := x.state != .idle && x.abort == .fading

/-- ABORT_FADE_END: the event that ends an abort's fade period (R145); there is none without a fade (log 10). -/
def execAbortFadeEnd (j : PlayerIx) (s : State) : Outcome := live s (if fadeDue s.players[j] then playerPeriod j s else s)

/-! ## The waveform (R147) -/

/-- The level coefficient: 16384, 8192, 4096 or 2048 (R136). -/
def levelCoef (l : Fin 4) : Int := 16384 / 2 ^ l.val

/-- The triangle of a phase: (2t - 32767) x 256 (R147). -/
def triangle (phase : BitVec 16) : Int :=
  let t : Int := if phase.toNat < 32768 then phase.toNat else 65535 - phase.toNat
  (2 * t - 32767) * 256

/-- The tone sample of a step at a phase; a rest gives 0 (R147). -/
def toneSample (x : Player) : Int :=
  if x.current.pitch = 0 then 0 else rnd (triangle x.phase * levelCoef x.current.level)

/-- A player is in a step: busy with its first step begun. -/
def inStep (x : Player) : Bool := x.state != .idle && !x.stepPending

/-- The output of a player in frame i (R147). -/
def playerOut (x : Player) (i : FrameIx) : Int :=
  if inStep x then if x.abort = .fading then rnd (toneSample x * fadeOut i) else toneSample x else 0

/-- The phase advances by the pitch entry's increment, modulo 65536; in a rest it stays at 0 (R147). -/
def advancePhase (pitches : Vector Nat 32) (x : Player) : Player :=
  if inStep x ∧ x.current.pitch ≠ 0 then { x with phase := x.phase + BitVec.ofNat 16 pitches[x.current.pitch] } else x

/-! ## Tone routes (R148) -/

/-- The player set of a byte: bits 0 to 3, adjusted where one of bits 4 to 7 is 1 (R148). -/
def playersStored (b : Byte) : Stored (Mask 4) := (maskOf 4 b.toNat, decide (16 ≤ b.toNat))

/-- SET TONE ROUTE (R148). -/
def setToneRoute (q : PortIx) (tag : Byte) (pl : List Byte) (s : State) : State :=
  match pl with
  | [st, sh, sl, set, gain] =>
    match (PState.ofCode st).bind routeIx with
    | none => reply q tag .illegal [] s
    | some r =>
      let body := fun t : State => [st, byte (maskNat t.routes[r].players), t.routes[r].gain]
      if s.ports[q].role = .engineering then
        let ps := store (selected sh sl 0) (playersStored set) s.routes[r].players
        let g := store (selected sh sl 1) (gainStored gain) s.routes[r].gain
        let t := { s with routes := s.routes.set r { players := ps.1, gain := g.1 } }
        reply q tag (okOr ps.2) (body t) t
      else reply q tag .notAllowed (body s) s
  | _ => reply q tag .illegal [] s

/-- SET TONE ROUTE (R148). -/
def execSetToneRoute (q : PortIx) (tag : Byte) (pl : List Byte) (s : State) : Outcome := live s (setToneRoute q tag pl s)

end Sys2Proof.Machine
end

