-- ==== Sys2Proof/Machine/Mixing.lean ====
section
/-! DEFINITION. The Mix Engine (chapters 3 and 4): SET SEND and SET MONITOR, the period start with its ramps, feed transitions
and key changes, and the frame computation. -/

namespace Sys2Proof.Machine

/-! ## SET SEND and SET MONITOR (R55, R74) -/

/-- The reply of SET SEND: source, bus and the send (R55). -/
def sendBody (s : State) (n : StudioIx) (b : BusIx) : List Byte :=
  [byte n.val, byte b.val, s.mix.sends[n][b].gain, flag s.mix.sends[n][b].excluded]

/-- One send replaced. -/
def putSend (n : StudioIx) (b : BusIx) (x : Send) (s : State) : State :=
  { s with mix := { s.mix with sends := s.mix.sends.set n (s.mix.sends[n].set b x) } }

/-- SET SEND (R55). -/
def setSend (q : PortIx) (tag : Byte) (pl : List Byte) (s : State) : State :=
  match pl with
  | [src, bus, sh, sl, gain, excl] =>
    match fin? 16 src.toNat, fin? 5 bus.toNat with
    | some n, some b =>
      if s.ports[q].role = .engineering then
        let g := store (selected sh sl 0) (gainStored gain) s.mix.sends[n][b].gain
        let e := store (selected sh sl 1) (flagStored excl) s.mix.sends[n][b].excluded
        let t := putSend n b { gain := g.1, excluded := e.1 } s
        reply q tag (okOr (g.2 || e.2)) (sendBody t n b) t
      else reply q tag .notAllowed (sendBody s n b) s
    | _, _ => reply q tag .illegal [] s
  | _ => reply q tag .illegal [] s

/-- SET SEND (R55). -/
def execSetSend (q : PortIx) (tag : Byte) (pl : List Byte) (s : State) : Outcome := live s (setSend q tag pl s)

/-- SET MONITOR (R74). -/
def setMonitor (q : PortIx) (tag : Byte) (pl : List Byte) (s : State) : State :=
  match pl with
  | [c] =>
    match fin? 31 c.toNat with
    | none => reply q tag .illegal [] s
    | some m =>
      if s.ports[q].role = .engineering then
        reply q tag .ok [byte m.val] { s with mix := { s.mix with monitor := m } }
      else reply q tag .notAllowed [] s
  | _ => reply q tag .illegal [] s

/-- SET MONITOR (R74). -/
def execSetMonitor (q : PortIx) (tag : Byte) (pl : List Byte) (s : State) : Outcome := live s (setMonitor q tag pl s)

/-! ## What ME takes at a period start (R56 to R60, R77, R82) -/

/-- The programme bus Pk (R53). -/
def programmeBus (k : Programme) : BusIx := ⟨k.val, by omega⟩

/-- The private-talk bus PRIVk (R53). -/
def privateBus (k : Programme) : BusIx := ⟨k.val + 3, by omega⟩

/-- The bus a party contributes to, by its state and programme (R56). -/
def contribution (st : PState) (k : Programme) : Option BusIx :=
  match st with
  | .screen => some 2
  | .priv => some (privateBus k)
  | .air => some (programmeBus k)
  | .hold | .ready | .standby | .idle | .ringing | .clearing | .offline => none

/-- The subtraction set of a party (R60). -/
def subtractionSet (s : State) (p : PartyIx) : Mask 24 :=
  Vector.ofFn fun q : PartyIx =>
    q == p || (s.parties[p].group != 0 && s.parties[q].group == s.parties[p].group)

/-- The studio sources whose send to a bus is set return-excluded (R54, R82). -/
def exclusionSet (s : State) (b : BusIx) : Mask 16 := Vector.ofFn fun n : StudioIx => s.mix.sends[n][b].excluded

/-- A bus-derived feed of a party (R82). -/
def busFeed (s : State) (p : PartyIx) (b : BusIx) : Feed := .bus b (subtractionSet s p) (exclusionSet s b)

/-- The hold feed of a party: PRE where its guard is armed, and otherwise by the mode of its programme (R59). A mark present is
a guard armed (R129). -/
def holdFeedFor (s : State) (p : PartyIx) : Feed :=
  if s.parties[p].echoMark.isSome then busFeed s p (programmeBus s.parties[p].programme)
  else
    match s.delays[s.parties[p].programme].holdFeed with
    | .pre => busFeed s p (programmeBus s.parties[p].programme)
    | .air => .air s.parties[p].programme

/-- The feed identity of a party (R58, R82). -/
def feedOf (s : State) (p : PartyIx) : Feed :=
  match s.parties[p].state with
  | .screen => busFeed s p 2
  | .hold | .ready => holdFeedFor s p
  | .standby | .air => busFeed s p (programmeBus s.parties[p].programme)
  | .priv => busFeed s p (privateBus s.parties[p].programme)
  | .idle | .ringing | .clearing | .offline => .silence

/-- The source term coefficient a party takes for a bus (R81). -/
def sourceTaken (r : PartyRec) (b : BusIx) : Nat :=
  if contribution r.state r.programme = some b then coef r.sourceGain else 0

/-- The VALID gate: open for a line, and for a codec while its filtered VALID is present (R45, R57). -/
def validGate (s : State) (p : PartyIx) : Bool := decide (p.val < 16) || filteredSecond s p

/-- The source of a party is heard in the period: its gate is open, and it is connected or being ramped out of a bus (R57;
DEDUCED, log 22). -/
def heardIn (s : State) (p : PartyIx) : Bool :=
  validGate s p &&
    (s.parties[p].state.connected || (List.finRange 5).any fun b => s.partyMix[p].source[b].new != 0)

/-- The tone gain coefficient a party takes: that of the route of its state, 0 without one (R90). -/
def toneTaken (s : State) (p : PartyIx) : Nat :=
  match routeIx s.parties[p].state with
  | some r => coef s.routes[r].gain
  | none => 0

/-- The players of a party's tone sum: none where its tone mute is on or its state has no route (R68). -/
def toneSet (s : State) (p : PartyIx) : Mask 4 :=
  match routeIx s.parties[p].state with
  | some r => if s.parties[p].toneMute then Vector.replicate 4 false else s.routes[r].players
  | none => Vector.replicate 4 false

/-! ## Key changes (R86 to R89) -/

/-- A key entering use: its talkback ramps up from 0 (R86). -/
def keyEntering (s : State) (k : KeyIx) : KeyUse :=
  { key := k, source := s.keys[k].source, talk := { old := 0, new := coef s.keys[k].talk } }

/-- A key leaving use: its talkback ramps to 0 (R86). -/
def keyLeaving (u : KeyUse) : KeyTail := { source := u.source, talk := u.talk.toward 0 }

/-- The fold-back stage of a period in which a change is held: every value as it ended the last period (R88). -/
def foldBackHeld (h : PartyMix) : PartyMix :=
  { h with
    duck := h.duck.settle, leaving := none, keyUse := h.keyUse.map fun u => { u with talk := u.talk.settle } }

/-- The fold-back stage of a period that takes the key in service; a key with another source is another key (R86). -/
def foldBackTaken (s : State) (p : PartyIx) (h : PartyMix) : PartyMix :=
  match h.keyUse, s.foldBacks[p].inService with
  | none, none => { h with duck := h.duck.toward 16384, leaving := none, keyUse := none }
  | none, some k =>
    { h with duck := h.duck.toward (coef s.keys[k].duck), leaving := none, keyUse := some (keyEntering s k) }
  | some u, none => { h with duck := h.duck.toward 16384, leaving := some (keyLeaving u), keyUse := none }
  | some u, some k =>
    if u.key = k ∧ u.source = s.keys[k].source then
      { h with
        duck := h.duck.toward (coef s.keys[k].duck), leaving := none
        keyUse := some { u with talk := u.talk.toward (coef s.keys[k].talk) } }
    else
      { h with
        duck := h.duck.toward (coef s.keys[k].duck), leaving := some (keyLeaving u), keyUse := some (keyEntering s k) }

/-- A change of the fold-back stage is held: the period is a feed transition to a feed that is not silence (R88, R89). -/
def holdsFoldBack (s : State) (p : PartyIx) : Bool := s.partyMix[p].feedNew != feedOf s p && feedOf s p != .silence

/-- The fold-back stage of the new period. -/
def foldBackStage (s : State) (p : PartyIx) : PartyMix :=
  if holdsFoldBack s p then foldBackHeld s.partyMix[p] else foldBackTaken s p s.partyMix[p]

/-! ## The period start (R77 to R83) -/

/-- ME's context of a party in the period that starts: every coefficient ramps from the value held to the value taken. -/
def partyMixAfter (s : State) (p : PartyIx) : PartyMix :=
  { foldBackStage s p with
    source := Vector.ofFn fun b : BusIx => s.partyMix[p].source[b].toward (sourceTaken s.parties[p] b)
    heard := heardIn s p
    feedOld := s.partyMix[p].feedNew
    feedNew := feedOf s p
    ret := s.partyMix[p].ret.toward (coef s.parties[p].returnGain)
    tone := s.partyMix[p].tone.toward (toneTaken s p)
    tonePlayers := toneSet s p }

/-- ME's context beside the parties in the period that starts, at its frame 0. -/
def mixAfter (s : State) : Mix :=
  { s.mix with
    sendCoef := Vector.ofFn fun n : StudioIx =>
      Vector.ofFn fun b : BusIx => s.mix.sendCoef[n][b].toward (coef s.mix.sends[n][b].gain)
    monitorOld := s.mix.monitorNew
    monitorNew := s.mix.monitor
    frame := 0 }

/-- The period-start event of ME (R77). -/
def mePeriod (s : State) : State :=
  { s with mix := mixAfter s, partyMix := Vector.ofFn fun p : PartyIx => partyMixAfter s p }

/-- ME_PERIOD_START (R77). -/
def execMePeriodStart (s : State) : Outcome := live s (mePeriod s)

/-! ## Sources, buses and air outputs of a frame (R50, R57, R61 to R65) -/

/-- The audio bits of a slot (R192). -/
def audio (x : TdmSlot) : Int := (x.extractLsb' 8 24).toInt

/-- The input sample of a party (R50). -/
def partyInput (x : FrameIn) (p : PartyIx) : Int :=
  if h : p.val < 16 then audio x.tel[p.val] else audio x.cdc[p.val - 16]

/-- The gated source sample of a party (R57). -/
def sourceSample (s : State) (x : FrameIn) (p : PartyIx) : Int := if s.partyMix[p].heard then partyInput x p else 0

/-- The term of a party on a bus (R56, R61). -/
def partyTerm (s : State) (x : FrameIn) (b : BusIx) (p : PartyIx) : Int :=
  rampAt s.partyMix[p].source[b] s.mix.frame * sourceSample s x p

/-- The term of a studio source on a bus (R61, R62). -/
def sendTerm (s : State) (x : FrameIn) (b : BusIx) (n : StudioIx) : Int :=
  rampAt s.mix.sendCoef[n][b] s.mix.frame * audio x.stu[n]

/-- The bus accumulator A_B (R62). -/
def busSum (s : State) (x : FrameIn) (b : BusIx) : Int :=
  ((List.finRange 16).map (sendTerm s x b)).sum + ((List.finRange 24).map (partyTerm s x b)).sum

/-- The output of a bus (R63). -/
def busOut (s : State) (x : FrameIn) (b : BusIx) : Int := sat (rnd (busSum s x b))

/-- The output AIRk of the frame, by the read of the delay under the mode stored before the frame (R113, R115; log 15). -/
def airOut (s : State) (x : FrameIn) (k : Programme) : Int :=
  airValue s.delays[k].state (sampleRead s.memSize s k (toSample (busOut s x (programmeBus k))) s.mix.frame) s.mix.frame

/-- What a bus-derived feed leaves of its bus: the accumulator less the terms of the subtraction set and of the excluded
sources, as they stand in it (R64). -/
def mixSum (s : State) (x : FrameIn) (b : BusIx) (minus : Mask 24) (excluded : Mask 16) : Int :=
  busSum s x b - ((List.finRange 24).map fun p => if minus[p] then partyTerm s x b p else 0).sum
    - ((List.finRange 16).map fun n => if excluded[n] then sendTerm s x b n else 0).sum

/-- The mix value of a feed (R64, R65). -/
def mixValue (s : State) (x : FrameIn) : Feed → Int
  | .silence => 0
  | .bus b minus excluded => sat (rnd (mixSum s x b minus excluded))
  | .air k => airOut s x k

/-- The mix value of a feed saturates (R64, R70). -/
def mixClips (s : State) (x : FrameIn) : Feed → Bool
  | .silence | .air _ => false
  | .bus b minus excluded => saturates (rnd (mixSum s x b minus excluded))

/-- The mix value of a party, crossfaded in a feed-transition period (R66, R83). -/
def partyMixValue (s : State) (x : FrameIn) (p : PartyIx) : Int :=
  if s.partyMix[p].feedOld = s.partyMix[p].feedNew then mixValue s x s.partyMix[p].feedNew
  else blend s.mix.frame (mixValue s x s.partyMix[p].feedOld) (mixValue s x s.partyMix[p].feedNew)

/-! ## The stages of a return (R67 to R69) -/

/-- The talkback of the key in use, or 0 (R67). -/
def useTerm (x : FrameIn) (i : FrameIx) : Option KeyUse → Int
  | some u => audio x.stu[u.source] * rampAt u.talk i
  | none => 0

/-- The talkback of a key ramping out, or 0 (R67, R86). -/
def tailTerm (x : FrameIn) (i : FrameIx) : Option KeyTail → Int
  | some u => audio x.stu[u.source] * rampAt u.talk i
  | none => 0

/-- The fold-back stage before it is clamped: the mix value itself without a key (R67). -/
def foldBackRaw (s : State) (x : FrameIn) (p : PartyIx) : Int :=
  if s.partyMix[p].keyUse.isNone && s.partyMix[p].leaving.isNone then partyMixValue s x p
  else
    rnd (partyMixValue s x p * rampAt s.partyMix[p].duck s.mix.frame + tailTerm x s.mix.frame s.partyMix[p].leaving
      + useTerm x s.mix.frame s.partyMix[p].keyUse)

/-- The tone stage before it is clamped (R68). -/
def toneRaw (s : State) (x : FrameIn) (p : PartyIx) : Int :=
  sat (foldBackRaw s x p) +
    ((List.finRange 4).map fun j =>
      if s.partyMix[p].tonePlayers[j] then
        rnd (playerOut s.players[j] s.mix.frame * rampAt s.partyMix[p].tone s.mix.frame)
      else 0).sum

/-- The return gain stage before it is clamped (R69). -/
def returnRaw (s : State) (x : FrameIn) (p : PartyIx) : Int :=
  rnd (sat (toneRaw s x p) * rampAt s.partyMix[p].ret s.mix.frame)

/-- The return out of a party (R69). -/
def returnOut (s : State) (x : FrameIn) (p : PartyIx) : Int := sat (returnRaw s x p)

/-- Some stage of a return saturates (R70). -/
def returnClips (s : State) (x : FrameIn) (p : PartyIx) : Bool :=
  mixClips s x s.partyMix[p].feedOld || mixClips s x s.partyMix[p].feedNew || saturates (foldBackRaw s x p) ||
    saturates (toneRaw s x p) || saturates (returnRaw s x p)

/-! ## MONITOR and the meters (R70, R73 to R75) -/

/-- The signal of a monitor code (R74). -/
def monitorSignal (s : State) (x : FrameIn) (c : MonitorIx) : Int :=
  if h : c.val < 24 then returnOut s x ⟨c.val, h⟩
  else if h : c.val < 29 then busOut s x ⟨c.val - 24, by omega⟩
  else airOut s x ⟨c.val - 29, by omega⟩

/-- The MONITOR output (R75). -/
def monitorOut (s : State) (x : FrameIn) : Int :=
  if s.mix.monitorOld = s.mix.monitorNew then monitorSignal s x s.mix.monitorNew
  else blend s.mix.frame (monitorSignal s x s.mix.monitorOld) (monitorSignal s x s.mix.monitorNew)

/-- The sample of a meter point (R73). -/
def meterSample (s : State) (x : FrameIn) (n : PointIx) : Int :=
  if h : n.val < 24 then sourceSample s x ⟨n.val, h⟩
  else if h : n.val < 48 then returnOut s x ⟨n.val - 24, by omega⟩
  else if h : n.val < 64 then audio (x.stu[n.val - 48]'(by omega))
  else if h : n.val < 69 then busOut s x ⟨n.val - 64, by omega⟩
  else airOut s x ⟨n.val - 69, by omega⟩

/-- A clip is reported at a meter point (R70). -/
def clipReport (s : State) (x : FrameIn) (n : PointIx) : Bool :=
  if n.val < 24 then false
  else if h : n.val < 48 then returnClips s x ⟨n.val - 24, by omega⟩
  else if n.val < 64 then false
  else if h : n.val < 69 then saturates (rnd (busSum s x ⟨n.val - 64, by omega⟩))
  else false

/-- A meter point after a frame: the magnitude is added in a measurement, and a clip reported sets the flag (R154, R158). -/
def pointAfter (s : State) (x : FrameIn) (n : PointIx) : Point :=
  { s.points[n] with
    acc := if s.meter.phase = .measuring then s.points[n].acc + magnitude (meterSample s x n) else s.points[n].acc
    clip := s.points[n].clip || clipReport s x n }

/-- A clip flag goes from clear to set (R158). -/
def newClip (s : State) (x : FrameIn) : Bool := (List.finRange 71).any fun n => clipReport s x n && !s.points[n].clip

/-! ## The output slots (R46, R71, R72, R192, R193, R195) -/

/-- A slot from its audio, dipped, and its auxiliary bits (R192, R195). -/
def slotOf (s : State) (v : Sample) (aux : Byte) : TdmSlot :=
  toSample (rnd (v.toInt * dipCoef s.clock s.mix.frame)) ++ aux

/-- SEIZE at A7 and ONAIR at A6 of a TEL slot, ONAIR at A6 of a CDC slot (R46, R192). -/
def auxOut (s : State) (p : PartyIx) : Byte := byte (128 * (seize s p).toNat + 64 * (onair s p).toNat)

/-- The audio of a STU output slot (R72). -/
def studioSlot (f : Formed) (n : StudioIx) : Sample :=
  match n.val with
  | 0 => f.buses[0] | 1 => f.buses[1] | 2 => f.air[0] | 3 => f.air[1]
  | 4 => f.buses[2] | 5 => f.buses[3] | 6 => f.buses[4] | 7 => f.monitor
  | _ => 0

/-- The output slots of a frame: the values formed two frames before (R193), with the auxiliary bits of the frame sent. -/
def sentAfter (s : State) : Sent :=
  { tel := Vector.ofFn fun n : LineIx => slotOf s (s.formedBefore.returns[n.val]'(by omega)) (auxOut s ⟨n.val, by omega⟩)
    cdc := Vector.ofFn fun n : LinkIx =>
      slotOf s (s.formedBefore.returns[n.val + 16]'(by omega)) (auxOut s ⟨n.val + 16, by omega⟩)
    stu := Vector.ofFn fun n : StudioIx => slotOf s (studioSlot s.formedBefore n) 0 }

/-- The three audio ports (R192). -/
inductive AudioPort where
  | tel | cdc | stu
  deriving DecidableEq, Repr

/-- The output slot n of a port, none beyond its last one: TEL and STU carry sixteen, CDC eight (R192). -/
def Sent.slot? (x : Sent) (port : AudioPort) (n : Nat) : Option TdmSlot :=
  match port with
  | .tel => x.tel[n]?
  | .cdc => x.cdc[n]?
  | .stu => x.stu[n]?

/-- The output lines of an audio port, true for high (R192). -/
structure AudioLines where
  fsync : Bool
  bclk : Bool
  dout : Bool
  deriving DecidableEq, Repr

/-- The output lines of an audio port in bit period n of the frame sent, before or after the rising edge of BCLK in it: all are
held low while RESET is asserted; otherwise FSYNC is high in the first bit period of slot 0, a bit period begins at a falling
edge of BCLK, and DOUT carries the slots of 32 bits in order, most significant bit first (R192; log 24). In the bit periods past
the last slot, which only the lengthened frame of R194 has, the spec gives no level, and the model has FSYNC and DOUT low and BCLK
running (DESIGN CHOICE, log 24). -/
def audioLines (s : State) (port : AudioPort) (n : Nat) (risen : Bool) : AudioLines :=
  if s.inReset then { fsync := false, bclk := false, dout := false }
  else
    { fsync := n == 0, bclk := risen
      dout :=
        match s.sent.slot? port (n / 32) with
        | some x => x.getLsbD (31 - n % 32)
        | none => false }

/-- The values a frame forms. -/
def formedAfter (s : State) (x : FrameIn) : Formed :=
  { index := s.mix.frame
    buses := Vector.ofFn fun b : BusIx => toSample (busOut s x b)
    air := Vector.ofFn fun k : Programme => toSample (airOut s x k)
    returns := Vector.ofFn fun p : PartyIx => toSample (returnOut s x p)
    monitor := toSample (monitorOut s x) }

/-! ## The end of a frame -/

/-- ME's context of a party once a period is over: every ramp has landed and the new feed is held (R78, R79, R83). -/
def PartyMix.settle (h : PartyMix) : PartyMix :=
  { h with
    source := Vector.ofFn fun b : BusIx => h.source[b].settle
    feedOld := h.feedNew
    duck := h.duck.settle
    leaving := none
    keyUse := h.keyUse.map fun u => { u with talk := u.talk.settle }
    ret := h.ret.settle
    tone := h.tone.settle }

/-- ME's context beside the parties once a period is over (R75, R78, R79). -/
def Mix.settle (m : Mix) : Mix :=
  { m with
    sendCoef := Vector.ofFn fun n : StudioIx => Vector.ofFn fun b : BusIx => m.sendCoef[n][b].settle
    monitorOld := m.monitorNew
    frame := 0
    period := m.period + 1 }

/-- The frame count goes on; frame 31 ends the period (R77; log 16). -/
def endFrame (s : State) : State :=
  if s.mix.frame = 31 then
    { s with mix := s.mix.settle, partyMix := Vector.ofFn fun p : PartyIx => s.partyMix[p].settle }
  else { s with mix := { s.mix with frame := s.mix.frame + 1 } }

/-- The frame computation (R62): the values of the frame, the slots sent, the meters and clips, and the players' phases. The frame
takes the memory size mode stored before it (R113), and has made no access on the delay memory port yet. -/
def frameComputation (x : FrameIn) (s : State) : State :=
  endFrame
    (raiseIf (newClip s x) .clip
      { s with
        formed := formedAfter s x
        formedBefore := s.formed
        sent := sentAfter s
        points := Vector.ofFn fun n : PointIx => pointAfter s x n
        players := Vector.ofFn fun j : PlayerIx => advancePhase s.pitches s.players[j]
        memInUse := s.memSize
        memPort := Vector.replicate 2 [] })

/-- FRAME_COMPUTATION (R62). -/
def execFrameComputation (x : FrameIn) (s : State) : Outcome := live s (frameComputation x s)

end Sys2Proof.Machine
end

