-- ==== Sys2Proof/Machine/Ports.lean ====
section
/-! DEFINITION. RESET and the control ports (chapter 10): role straps, frame answers, status, events and masks, and what a port
shifts out. -/

namespace Sys2Proof.Machine

/-! ## RESET (R2, R185, R191, R192) -/

/-- RESET: every block at its reset values, the pin asserted, the queue of commands kept. -/
def execReset (s : State) : Outcome := .next { State.reset with inReset := true, pending := s.pending }

/-- The role two straps give (R185). -/
def roleOf (x : Straps) : Role :=
  match x.high, x.low with
  | false, false => .engineering
  | false, true => .studio 0
  | true, false => .studio 1
  | true, true => .screener

/-- RESET_RELEASE: the straps are sampled and framing starts with frame 0 of period 0 (R185, R192). -/
def execResetRelease (straps : Vector Straps 3) (s : State) : Outcome :=
  .next
    { s with
      inReset := false
      ports := Vector.ofFn fun q : PortIx => { s.ports[q] with role := roleOf straps[q] }
      mix := { s.mix with frame := 0, period := 0 } }

/-! ## Frames (R181 to R183) -/

/-- FRAME_ANSWER: the tag received, or 0 for fewer than two bytes, the result FRAME and a length of 0 (R181). -/
def execFrameAnswer (q : PortIx) (bytes : List Byte) (s : State) : Outcome :=
  live s (reply q (bytes.getD 1 0) .frame [] s)

/-- UNKNOWN_COMMAND: the tag, the result UNKNOWN and a length of 0 (R182). -/
def execUnknownCommand (q : PortIx) (_number tag : Byte) (_payload : List Byte) (s : State) : Outcome :=
  live s (reply q tag .unknown [] s)

/-- NOP: the reply slot and all state stand (R182). -/
def execNop (_q : PortIx) (_tag : Byte) (_payload : List Byte) (s : State) : Outcome := live s s

/-- The bytes of a reply slot: tag, result, length, body (R183). -/
def Slot.bytes (x : Slot) : List Byte := [x.tag, x.result.code, byte x.body.length] ++ x.body

/-- What a port shifts out in a transaction of n bytes: the slot as it stood when CS fell, then zeros (R183; log 24). -/
def shiftedOut (s : State) (q : PortIx) (n : Nat) : List Byte :=
  (s.ports[q].slot.bytes ++ List.replicate n 0).take n

/-- Bit n that a port shifts out in a transaction, from the slot as it stood when CS fell: its bytes most significant bit first,
of a byte left incomplete too, then zeros (R180, R183; log 24). -/
def shiftedBit (s : State) (q : PortIx) (n : Nat) : Bool := ((shiftedOut s q (n / 8 + 1)).getD (n / 8) 0).getLsbD (7 - n % 8)

/-- The data output of a port, with CS high or low, when n bits of the transaction have been shifted out before: none is
high-impedance, while CS is high (R180). With CS low while RESET is asserted, and in a transaction ignored because its CS fell
before RESET release, R180 gives no level, and the model shifts out the slot as in any transaction (DESIGN CHOICE, log 24). -/
def dataOutput (csHigh : Bool) (s : State) (q : PortIx) (n : Nat) : Option Bool := if csHigh then none else some (shiftedBit s q n)

/-! ## Status, events and masks (R187 to R190) -/

/-- The body of READ STATUS (R187, R199). -/
def statusBody (q : PortIx) (s : State) : List Byte :=
  [0x24, 0x16, 1, byte q.val, s.ports[0].role.code, s.ports[1].role.code, s.ports[2].role.code, s.clock.lock.code]

/-- READ STATUS (R187). -/
def execReadStatus (q : PortIx) (tag : Byte) (pl : List Byte) (s : State) : Outcome :=
  live s (plainRead (statusBody q) q tag pl s)

/-- READ EVENTS: the flags as they stand and the mask are reported, and the flags reported are cleared (R190). The bits of an
event word of flags that name no flag are sent as 0 (DESIGN CHOICE, log 33); those of the mask are stored as 0 (R189). -/
def readEvents (q : PortIx) (tag : Byte) (pl : List Byte) (s : State) : State :=
  if pl.isEmpty then
    reply q tag .ok (bytes16 s.ports[q].flags.toNat ++ bytes16 s.ports[q].mask.toNat)
      { s with ports := s.ports.set q { s.ports[q] with flags := 0 } }
  else reply q tag .illegal [] s

/-- READ EVENTS (R190). -/
def execReadEvents (q : PortIx) (tag : Byte) (pl : List Byte) (s : State) : Outcome := live s (readEvents q tag pl s)

/-- SET EVENT MASK: the eleven enables are stored, the five other bits adjusted where sent as 1 (R189). The bits of the
reply's flags that name no flag are sent as 0 (DESIGN CHOICE, log 33). -/
def setEventMask (q : PortIx) (tag : Byte) (pl : List Byte) (s : State) : State :=
  match pl with
  | [h, l] =>
    let m := BitVec.ofNat 11 (be16 h l)
    reply q tag (okOr (decide (2048 ≤ be16 h l))) (bytes16 m.toNat ++ bytes16 s.ports[q].flags.toNat)
      { s with ports := s.ports.set q { s.ports[q] with mask := m } }
  | _ => reply q tag .illegal [] s

/-- SET EVENT MASK (R189). -/
def execSetEventMask (q : PortIx) (tag : Byte) (pl : List Byte) (s : State) : Outcome := live s (setEventMask q tag pl s)

end Sys2Proof.Machine
end

