-- ==== Sys2Proof/Machine/Supervision.lean ====
section
/-! DEFINITION. The Line Supervisor (chapter 2): sampling, the evaluation of a party, the supervision causes at PT, and SET
LINE TIMING. -/

namespace Sys2Proof.Machine

/-- The ring count at which ring abandon is handed: 6 s (R38). -/
def ringLimit : Nat := 9000

/-- The answer count at which answer failure is handed: 2 s (R39). -/
def answerLimit : Nat := 3000

/-- The clearing count at which clearing complete is handed: 0.5 s (R42). -/
def clearingLimit : Nat := 750

/-- The largest drop count (R35). -/
def dropMax : Nat := 900

/-- The drop time of a code, in periods (R41). -/
def dropTime (c : Fin 3) : Nat :=
  match c with
  | 0 => 225 | 1 => 450 | 2 => 900

/-! ## Sampling (R36) -/

/-- The first auxiliary bit A7 of a slot: RING on TEL, LINK on CDC (R192). -/
def auxA7 (b : Byte) : Bool := b.getLsbD 7

/-- The second auxiliary bit A6 of a slot: LOOP on TEL, VALID on CDC (R192). -/
def auxA6 (b : Byte) : Bool := b.getLsbD 6

/-- A sample of every supervision bit enters its history (R36). -/
def sampleAll (aux : AuxIn) (s : State) : State :=
  { s with
    lines := Vector.ofFn fun n : LineIx =>
      { s.lines[n] with
        ring := pushSample (auxA7 aux.tel[n]) s.lines[n].ring, loop := pushSample (auxA6 aux.tel[n]) s.lines[n].loop }
    links := Vector.ofFn fun n : LinkIx =>
      { link := pushSample (auxA7 aux.cdc[n]) s.links[n].link, valid := pushSample (auxA6 aux.cdc[n]) s.links[n].valid } }

/-- SUPERVISION_SAMPLE (R36). -/
def execSupervisionSample (aux : AuxIn) (s : State) : Outcome := live s (sampleAll aux s)

/-! ## Evaluation (R37 to R44) -/

/-- The evaluation of a line in a state: its context, whether FLASH is raised, and the cause handed to PT. A count stays
within the range of R35 where a cause that it handed has not been taken (log 13). -/
def evaluateLine (p : PartyIx) (st : PState) (limit : Nat) (c : LineCtx) : LineCtx × Bool × List Instr :=
  match st with
  | .idle => (c, false, if filtered c.ring then [.ring p] else [])
  | .ringing =>
    if filtered c.ring then ({ c with ringCount := 0 }, false, [])
    else
      ({ c with ringCount := min ringLimit (c.ringCount + 1) }, false,
        if ringLimit ≤ c.ringCount + 1 then [.ringAbandon p] else [])
  | .clearing =>
    if filtered c.ring || filtered c.loop then ({ c with clearingCount := 0 }, false, [])
    else
      ({ c with clearingCount := min clearingLimit (c.clearingCount + 1) }, false,
        if clearingLimit ≤ c.clearingCount + 1 then [.clearingComplete p] else [])
  | .screen | .hold | .ready | .priv | .air =>
    if c.loopSeen then
      if filtered c.loop then ({ c with dropCount := 0 }, decide (0 < c.dropCount), [])
      else
        ({ c with dropCount := min dropMax (c.dropCount + 1) }, false,
          if limit ≤ c.dropCount + 1 then [.loopDrop p] else [])
    else if filtered c.loop then ({ c with loopSeen := true, answerCount := 0 }, false, [])
    else
      ({ c with answerCount := min answerLimit (c.answerCount + 1) }, false,
        if answerLimit ≤ c.answerCount + 1 then [.answerFailure p] else [])
  | .offline | .standby => (c, false, [])

/-- The cause the evaluation of a codec hands to PT (R44). -/
def evaluateLink (p : PartyIx) (st : PState) (c : LinkCtx) : List Instr :=
  match st with
  | .offline => if filtered c.link then [.linkUp p] else []
  | .standby | .priv | .air => if filtered c.link then [] else [.linkDown p]
  | _ => []

/-- The evaluation of one party (R37). -/
def evaluateParty (p : PartyIx) (s : State) : State :=
  if h : p.val < 16 then
    let e := evaluateLine p s.parties[p].state (dropTime s.dropCode) s.lines[p.val]
    hand e.2.2 (raiseIf e.2.1 .flash { s with lines := s.lines.set p.val e.1 })
  else hand (evaluateLink p s.parties[p].state s.links[p.val - 16]) s

/-- PARTY_EVALUATION (R37). -/
def execPartyEvaluation (p : PartyIx) (s : State) : Outcome := live s (evaluateParty p s)

/-! ## Supervision causes at PT (R6 to R8) -/

/-- A supervision cause arrives: applied from its from-states, otherwise discarded (R6, R7). Where applied it raises PARTY,
and the event of the cause where it has one (R8). -/
def applyCause (kind : Kind) (froms : List PState) (next : PState) (ev : Option Event) (p : PartyIx) (s : State) : State :=
  if kindOf p = kind ∧ s.parties[p].state ∈ froms then
    match ev with
    | some e => raise e (changeState p next s.parties[p].programme s)
    | none => changeState p next s.parties[p].programme s
  else s

/-- The from-states of loop drop and answer failure (R6). -/
def answeredStates : List PState := [.screen, .hold, .ready, .priv, .air]

/-- RING (R6, R37). -/
def execRing (p : PartyIx) (s : State) : Outcome :=
  live s (applyCause .phone [.idle] .ringing (some .ring) p (took (.ring p) s))

/-- RING_ABANDON (R6, R38). -/
def execRingAbandon (p : PartyIx) (s : State) : Outcome :=
  live s (applyCause .phone [.ringing] .idle none p (took (.ringAbandon p) s))

/-- ANSWER_FAILURE (R6, R39). -/
def execAnswerFailure (p : PartyIx) (s : State) : Outcome :=
  live s (applyCause .phone answeredStates .clearing (some .hangup) p (took (.answerFailure p) s))

/-- LOOP_DROP (R6, R40). -/
def execLoopDrop (p : PartyIx) (s : State) : Outcome :=
  live s (applyCause .phone answeredStates .clearing (some .hangup) p (took (.loopDrop p) s))

/-- CLEARING_COMPLETE (R6, R42). -/
def execClearingComplete (p : PartyIx) (s : State) : Outcome :=
  live s (applyCause .phone [.clearing] .idle none p (took (.clearingComplete p) s))

/-- LINK_UP (R6, R44). -/
def execLinkUp (p : PartyIx) (s : State) : Outcome :=
  live s (applyCause .codec [.offline] .standby (some .link) p (took (.linkUp p) s))

/-- LINK_DOWN (R6, R44). -/
def execLinkDown (p : PartyIx) (s : State) : Outcome :=
  live s (applyCause .codec [.standby, .priv, .air] .offline (some .link) p (took (.linkDown p) s))

/-! ## SET LINE TIMING (R41) -/

/-- SET LINE TIMING: a code of 3 to 255 is stored as 2, adjusted (R41). -/
def setLineTiming (q : PortIx) (tag : Byte) (pl : List Byte) (s : State) : State :=
  match pl with
  | [c] =>
    if s.ports[q].role = .engineering then
      reply q tag (okOr (decide (2 < c.toNat))) [byte (min 2 c.toNat)]
        { s with dropCode := ⟨min 2 c.toNat, by omega⟩ }
    else reply q tag .notAllowed [] s
  | _ => reply q tag .illegal [] s

/-- SET LINE TIMING (R41). -/
def execSetLineTiming (q : PortIx) (tag : Byte) (pl : List Byte) (s : State) : Outcome := live s (setLineTiming q tag pl s)

end Sys2Proof.Machine
end

