-- ==== Sys2Proof/Machine/Dispatch.lean ====
section
/-! DEFINITION. The dispatch of commands: one arm for each row of spec/opcode_table.json, one direct call of its meaning. -/

namespace Sys2Proof.Machine

def exec (i : Instr) (s : State) : Host.Outcome State Fault Refusal :=
  match i with
  | .reset => Sys2Proof.Machine.execReset s
  | .resetRelease straps => Sys2Proof.Machine.execResetRelease straps s
  | .frameAnswer q bytes => Sys2Proof.Machine.execFrameAnswer q bytes s
  | .unknownCommand q n t pl => Sys2Proof.Machine.execUnknownCommand q n t pl s
  | .nop q t pl => Sys2Proof.Machine.execNop q t pl s
  | .readStatus q t pl => Sys2Proof.Machine.execReadStatus q t pl s
  | .readEvents q t pl => Sys2Proof.Machine.execReadEvents q t pl s
  | .setEventMask q t pl => Sys2Proof.Machine.execSetEventMask q t pl s
  | .readParty q t pl => Sys2Proof.Machine.execReadParty q t pl s
  | .readTable q t pl => Sys2Proof.Machine.execReadTable q t pl s
  | .setParty q t pl => Sys2Proof.Machine.execSetParty q t pl s
  | .answer q t pl => Sys2Proof.Machine.execAnswer q t pl s
  | .screen q t pl => Sys2Proof.Machine.execScreen q t pl s
  | .hold q t pl => Sys2Proof.Machine.execHold q t pl s
  | .ready q t pl => Sys2Proof.Machine.execReady q t pl s
  | .privateTalk q t pl => Sys2Proof.Machine.execPrivateTalk q t pl s
  | .take q t pl => Sys2Proof.Machine.execTake q t pl s
  | .drop q t pl => Sys2Proof.Machine.execDrop q t pl s
  | .setSend q t pl => Sys2Proof.Machine.execSetSend q t pl s
  | .setMonitor q t pl => Sys2Proof.Machine.execSetMonitor q t pl s
  | .key q t pl => Sys2Proof.Machine.execKey q t pl s
  | .setKey q t pl => Sys2Proof.Machine.execSetKey q t pl s
  | .readKeys q t pl => Sys2Proof.Machine.execReadKeys q t pl s
  | .request key party => Sys2Proof.Machine.execRequest key party s
  | .release key party => Sys2Proof.Machine.execRelease key party s
  | .reconsideration key party => Sys2Proof.Machine.execReconsideration key party s
  | .keyTrigger key cell out => Sys2Proof.Machine.execKeyTrigger key cell out s
  | .writeSteps q t pl => Sys2Proof.Machine.execWriteSteps q t pl s
  | .writePitches q t pl => Sys2Proof.Machine.execWritePitches q t pl s
  | .readToneMemory q t pl => Sys2Proof.Machine.execReadToneMemory q t pl s
  | .setPlayer q t pl => Sys2Proof.Machine.execSetPlayer q t pl s
  | .start q t pl => Sys2Proof.Machine.execStart q t pl s
  | .stop q t pl => Sys2Proof.Machine.execStop q t pl s
  | .abort q t pl => Sys2Proof.Machine.execAbort q t pl s
  | .setToneRoute q t pl => Sys2Proof.Machine.execSetToneRoute q t pl s
  | .readPlayers q t pl => Sys2Proof.Machine.execReadPlayers q t pl s
  | .playerTrigger player cell out => Sys2Proof.Machine.execPlayerTrigger player cell out s
  | .setDelay q t pl => Sys2Proof.Machine.execSetDelay q t pl s
  | .dump q t pl => Sys2Proof.Machine.execDump q t pl s
  | .readDelay q t pl => Sys2Proof.Machine.execReadDelay q t pl s
  | .setMemorySize q t pl => Sys2Proof.Machine.execSetMemorySize q t pl s
  | .delayTrigger delay cell out => Sys2Proof.Machine.execDelayTrigger delay cell out s
  | .setMetering q t pl => Sys2Proof.Machine.execSetMetering q t pl s
  | .readMeters q t pl => Sys2Proof.Machine.execReadMeters q t pl s
  | .setSupervisor q t pl => Sys2Proof.Machine.execSetSupervisor q t pl s
  | .readSupervisors q t pl => Sys2Proof.Machine.execReadSupervisors q t pl s
  | .clearClips q t pl => Sys2Proof.Machine.execClearClips q t pl s
  | .setCell q t pl => Sys2Proof.Machine.execSetCell q t pl s
  | .setGpo q t pl => Sys2Proof.Machine.execSetGpo q t pl s
  | .readLogic q t pl => Sys2Proof.Machine.execReadLogic q t pl s
  | .setLineTiming q t pl => Sys2Proof.Machine.execSetLineTiming q t pl s
  | .setClock q t pl => Sys2Proof.Machine.execSetClock q t pl s
  | .supervisionSample aux => Sys2Proof.Machine.execSupervisionSample aux s
  | .partyEvaluation party => Sys2Proof.Machine.execPartyEvaluation party s
  | .ring party => Sys2Proof.Machine.execRing party s
  | .ringAbandon party => Sys2Proof.Machine.execRingAbandon party s
  | .answerFailure party => Sys2Proof.Machine.execAnswerFailure party s
  | .loopDrop party => Sys2Proof.Machine.execLoopDrop party s
  | .clearingComplete party => Sys2Proof.Machine.execClearingComplete party s
  | .linkUp party => Sys2Proof.Machine.execLinkUp party s
  | .linkDown party => Sys2Proof.Machine.execLinkDown party s
  | .mePeriodStart => Sys2Proof.Machine.execMePeriodStart s
  | .frameComputation slots => Sys2Proof.Machine.execFrameComputation slots s
  | .delayWriteRead delay => Sys2Proof.Machine.execDelayWriteRead delay s
  | .delayPeriodStart delay => Sys2Proof.Machine.execDelayPeriodStart delay s
  | .dumpJump delay => Sys2Proof.Machine.execDumpJump delay s
  | .playerPeriodStart player => Sys2Proof.Machine.execPlayerPeriodStart player s
  | .stepComplete player => Sys2Proof.Machine.execStepComplete player s
  | .abortFadeEnd player => Sys2Proof.Machine.execAbortFadeEnd player s
  | .meterPeriodStart => Sys2Proof.Machine.execMeterPeriodStart s
  | .measurementComplete => Sys2Proof.Machine.execMeasurementComplete s
  | .waitingEnd => Sys2Proof.Machine.execWaitingEnd s
  | .lcPeriodEnd pins => Sys2Proof.Machine.execLcPeriodEnd pins s
  | .gpoDelivery pin cell out => Sys2Proof.Machine.execGpoDelivery pin cell out s
  | .judgement edges => Sys2Proof.Machine.execJudgement edges s
  | .realign edges => Sys2Proof.Machine.execRealign edges s

end Sys2Proof.Machine
end

