-- ==== Sys2Proof/WellFormed.lean ====
section
/-! DEFINITION. Well-formed commands: what the pins and the blocks can give. A payload holds at most 124 bytes; a FRAME answer
concerns bytes that are no whole frame, an UNKNOWN answer a number that names no command; a line's cause names a line and a
link's cause a codec; a period counts a finite number of edges. exec is total without this check (log 26). -/

namespace Sys2Proof

/-- Bytes that are no whole frame, of a transaction that holds a whole byte (R181). -/
def cutFrame (bytes : List Byte) : Bool :=
  match bytes with
  | [] => false
  | _ :: _ :: len :: rest => !(decide (len.toNat ≤ 124) && decide (len.toNat ≤ rest.length))
  | _ => true

/-- A number that names no command (R182, R198). -/
def unknownNumber (n : Byte) : Bool :=
  !([0x00, 0x01, 0x02, 0x03, 0x10, 0x11, 0x12, 0x20, 0x21, 0x22, 0x23, 0x24, 0x25, 0x26,
      0x30, 0x31, 0x40, 0x41, 0x42, 0x50, 0x51, 0x52, 0x53, 0x54, 0x55, 0x56, 0x57, 0x58,
      0x60, 0x61, 0x62, 0x63, 0x70, 0x71, 0x72, 0x73, 0x74, 0x80, 0x81, 0x82, 0x90, 0x91].contains n.toNat)

/-- A payload within the frame's limit (R181). -/
def payloadFits (payload : List Byte) : Bool := decide (payload.length ≤ 124)

/-- A party that is a telephone line (R1). -/
def isLine (p : PartyIx) : Bool := decide (p.val < 16)

/-- A command is well formed. -/
def Instr.wellFormed (i : Instr) : Bool :=
  match i with
  | .frameAnswer _ bytes => cutFrame bytes
  | .unknownCommand _ n _ p => unknownNumber n && payloadFits p
  | .nop _ _ p | .readStatus _ _ p | .readEvents _ _ p | .setEventMask _ _ p | .readParty _ _ p | .readTable _ _ p |
    .setParty _ _ p | .answer _ _ p | .screen _ _ p | .hold _ _ p | .ready _ _ p | .privateTalk _ _ p | .take _ _ p |
    .drop _ _ p | .setSend _ _ p | .setMonitor _ _ p | .key _ _ p | .setKey _ _ p | .readKeys _ _ p |
    .writeSteps _ _ p | .writePitches _ _ p | .readToneMemory _ _ p | .setPlayer _ _ p | .start _ _ p | .stop _ _ p |
    .abort _ _ p | .setToneRoute _ _ p | .readPlayers _ _ p | .setDelay _ _ p | .dump _ _ p | .readDelay _ _ p |
    .setMemorySize _ _ p | .setMetering _ _ p | .readMeters _ _ p | .setSupervisor _ _ p | .readSupervisors _ _ p |
    .clearClips _ _ p | .setCell _ _ p | .setGpo _ _ p | .readLogic _ _ p | .setLineTiming _ _ p | .setClock _ _ p =>
    payloadFits p
  | .ring p | .ringAbandon p | .answerFailure p | .loopDrop p | .clearingComplete p => isLine p
  | .linkUp p | .linkDown p => !isLine p
  | .reset | .resetRelease _ | .request _ _ | .release _ _ | .reconsideration _ _ | .keyTrigger _ _ _ |
    .playerTrigger _ _ _ | .delayTrigger _ _ _ | .supervisionSample _ | .partyEvaluation _ | .mePeriodStart |
    .frameComputation _ | .delayWriteRead _ | .delayPeriodStart _ | .dumpJump _ | .playerPeriodStart _ |
    .stepComplete _ | .abortFadeEnd _ | .meterPeriodStart | .measurementComplete | .waitingEnd | .lcPeriodEnd _ |
    .gpoDelivery _ _ _ | .judgement _ | .realign _ => true

end Sys2Proof
end

