-- ==== Sys2Proof/Safety.lean ====
section
/-! DEFINITION. What the statements about the part are made in: the conditions a state keeps at every step, and the ways a command
leaves the ports. -/

namespace Sys2Proof.Machine

/-! ## What a command leaves on the ports -/

/-- The ports after a command that was answered: the reply stands in the slot of its port and the other slots stand (R183); the
flags of all ports are those before with the raised ones set (R188); masks and roles stand. -/
structure Replied (q : PortIx) (tag : Byte) (r : Result) (body : List Byte) (raised : BitVec 11) (s t : State) : Prop where
  slot : t.ports[q].slot = { tag := tag, result := r, body := body }
  others : ∀ j : PortIx, j ≠ q → t.ports[j].slot = s.ports[j].slot
  flags : ∀ j : PortIx, t.ports[j].flags = s.ports[j].flags ||| raised
  mask : ∀ j : PortIx, t.ports[j].mask = s.ports[j].mask
  role : ∀ j : PortIx, t.ports[j].role = s.ports[j].role

/-- The ports after an arrival without a reply. -/
structure Raised (raised : BitVec 11) (s t : State) : Prop where
  slot : ∀ j : PortIx, t.ports[j].slot = s.ports[j].slot
  flags : ∀ j : PortIx, t.ports[j].flags = s.ports[j].flags ||| raised
  mask : ∀ j : PortIx, t.ports[j].mask = s.ports[j].mask
  role : ∀ j : PortIx, t.ports[j].role = s.ports[j].role

/-- The flag of an event where a condition holds, no flag otherwise. -/
def flagIf (b : Bool) (e : Event) : BitVec 11 := if b then e.flagOf else 0

/-- A state command's payload: party index, expected state, programme byte (R14, R198). -/
def statePayload (p : PartyIx) (e : PState) (k : Byte) : List Byte := bytes16 p.val ++ [e.code, k]

/-- A state command's reply: party index, state, programme, change count (R18, R198). -/
def stateReply (p : PartyIx) (st : PState) (k : Programme) (n : Byte) : List Byte := bytes16 p.val ++ [st.code, programmeCode k, n]

/-- Every item of a vector but one is as it was. -/
def SameBut {α : Type} {n : Nat} (i : Fin n) (v w : Vector α n) : Prop := ∀ j : Fin n, j ≠ i → w[j] = v[j]

/-- A command or cause that concerns one party has changed nothing but that party's record, its fold-back context, the counts of
its line and the ports; the sample histories stand. -/
structure OnlyParty (p : PartyIx) (s t : State) : Prop where
  rest : t = { s with parties := t.parties, foldBacks := t.foldBacks, lines := t.lines, ports := t.ports, handed := t.handed }
  parties : SameBut p s.parties t.parties
  foldBacks : SameBut p s.foldBacks t.foldBacks
  lines : ∀ n : LineIx, n.val ≠ p.val → t.lines[n] = s.lines[n]
  samples : ∀ n : LineIx, t.lines[n].ring = s.lines[n].ring ∧ t.lines[n].loop = s.lines[n].loop

/-- The programme of a party after a SET PARTY that selects one: as sent for a phone in IDLE, SCREEN or HOLD and for a codec in
OFFLINE or STANDBY, the current one otherwise (R29). -/
def programmeKept (p : PartyIx) (r : PartyRec) (sent : Programme) : Programme :=
  if (p.val < 16 ∧ r.state ∈ [PState.idle, .screen, .hold]) ∨ (16 ≤ p.val ∧ r.state ∈ [PState.offline, .standby]) then sent
  else r.programme

/-- A feed keeps a party out: a bus-derived feed whose subtraction set holds it, or silence (R60, R64). -/
def Feed.hides (q : PartyIx) : Feed → Prop
  | .silence => True
  | .bus _ minus _ => minus[q] = true
  | .air _ => False

/-! ## Parties and fold-back (R1, R4, R5, R51, R96, R129) -/

/-- The states a party of a kind may be in (R5). -/
def PState.legalFor : Kind → PState → Bool
  | .phone, .idle | .phone, .ringing | .phone, .screen | .phone, .hold | .phone, .ready | .phone, .priv | .phone, .air
  | .phone, .clearing => true
  | .codec, .offline | .codec, .standby | .codec, .priv | .codec, .air => true
  | _, _ => false

/-- A gain code as stored: 0 to 192, or 255 for OFF (R51). -/
def gainOk (v : Byte) : Prop := v.toNat ≤ 192 ∨ v = 255

/-- Every record is in a state of its kind, its gains are stored codes, and its mark stands only in HOLD or READY while the
delay of its programme is not in BYPASS (R5, R51, R129). -/
structure PartiesOk (s : State) : Prop where
  legal : ∀ p : PartyIx, s.parties[p].state.legalFor (kindOf p) = true
  gains : ∀ p : PartyIx, gainOk s.parties[p].sourceGain ∧ gainOk s.parties[p].returnGain
  mark : ∀ p : PartyIx, s.parties[p].echoMark.isSome = true →
    s.parties[p].state.waiting = true ∧ s.delays[s.parties[p].programme].state ≠ .bypass

/-- Every request list holds no key twice, the key in service is one of the list, a party that is not connected has an empty
list, and one whose fold-back is off has no service (R96, R97, R101, R103). -/
structure FoldBacksOk (s : State) : Prop where
  once : ∀ p : PartyIx, s.foldBacks[p].list.Nodup
  served : ∀ (p : PartyIx) (k : KeyIx), s.foldBacks[p].inService = some k → k ∈ s.foldBacks[p].list
  connected : ∀ p : PartyIx, s.parties[p].state.connected = false → s.foldBacks[p].list = []
  enabled : ∀ p : PartyIx, s.foldBacks[p].inService.isSome = true → s.parties[p].foldBack = true

/-- The key that selection finds in a list: the lowest priority number, the earliest among equals (R97). -/
def Selected (pri : KeyIx → Nat) (l : List KeyIx) (k : KeyIx) : Prop :=
  ∃ before after, l = before ++ k :: after ∧ (∀ j ∈ before, pri k < pri j) ∧ ∀ j ∈ after, pri k ≤ pri j

/-- The law of R97 at one context: no listed key has a strictly higher priority than the key in service. -/
def ServesHighest (pri : KeyIx → Nat) (f : FoldBack) : Prop := ∀ k, f.inService = some k → ∀ j ∈ f.list, pri k ≤ pri j

/-- The law of R97 at every party, against the priorities as stored. -/
def ServicesOk (s : State) : Prop := ∀ p : PartyIx, ServesHighest (priorityOf s) s.foldBacks[p]

/-- Every key is active exactly while a latch is set or its trigger output is 1, a key without a trigger cell holds the output 0,
and its codes are stored gain codes (R51, R93, R106). -/
structure KeysOk (s : State) : Prop where
  active : ∀ k : KeyIx, s.keys[k].active = (s.keys[k].latches[0] || s.keys[k].latches[1] || s.keys[k].latches[2] || s.keys[k].triggerOut)
  trigger : ∀ k : KeyIx, s.keys[k].trigger = none → s.keys[k].triggerOut = false
  gains : ∀ k : KeyIx, gainOk s.keys[k].duck ∧ gainOk s.keys[k].talk

/-! ## Air delays and the delay memory (R112 to R125) -/

/-- A delay under a memory size mode: the values of R114 are in range, its length is within L_max and 0 in BYPASS (R116), and
its dump counts fit its state (R117, R122 to R125). -/
structure DelayOk (m : MemSize) (d : Delay) : Prop where
  length : d.length ≤ m.lMax
  bypass : d.state = .bypass → d.length = 0 ∧ d.dumps = 0
  target : d.target ≤ m.lMax ∧ 32 ∣ d.target
  inUse : d.state = .building → d.targetInUse ≤ m.lMax
  segment : d.segment ≤ 65534
  codes : d.qEnter < d.qLeave ∧ d.qLeave ≤ 15
  peak : d.peak ≤ 8388607
  dumps : d.dumps ≤ 255
  out : d.state = .dumpOut → 1 ≤ d.dumps
  back : d.state = .dumpIn → d.dumps = 0
  waits : d.dumpPending = true → d.state = .dumpIn ∧ 32 ≤ d.length
  trigger : d.trigger = none → d.triggerOut = false

/-- Both delays fit the memory size mode. -/
def DelaysOk (s : State) : Prop := ∀ k : Programme, DelayOk s.memSize s.delays[k]

/-- The SRAM has its canonical form, within the 2^22 words of the port (R112, R197), and a writer is recorded for each of its
listed words and no other. -/
def MemoryOk (s : State) : Prop :=
  Memory.wf s.sram ∧ (∀ e ∈ s.sram, e.1 < 4194304) ∧ s.writers.map Prod.fst = s.sram.map Prod.fst

/-- The running frame has another memory size mode than the one stored only while both delays are in BYPASS (R113). -/
def ModeOk (s : State) : Prop := s.memInUse = s.memSize ∨ ∀ k : Programme, s.delays[k].state = .bypass

/-- Every sample that a delay still has to read was written since RESET, by that delay itself, so that a word not written, or
written by the other delay, is never read (R112). -/
def HeldOk (s : State) : Prop :=
  ∀ (k : Programme) (n : Nat), n < s.delays[k].length →
    (sramRead s.sram (wordAddr s.memInUse k (s.delays[k].rd + BitVec.ofNat 32 n))).isSome = true ∧
      sramRead s.writers (wordAddr s.memInUse k (s.delays[k].rd + BitVec.ofNat 32 n)) = some k

/-! ## Tone players (R136 to R149) -/

/-- A step's length is 1 to 63 ticks (R136). -/
def Step.ok (x : Step) : Prop := 1 ≤ x.length ∧ x.length ≤ 63

/-- A player's settings are in range, an IDLE player has no play left, and a pending step has no remaining periods (R140,
R142). -/
structure PlayerOk (x : Player) : Prop where
  tick : 1 ≤ x.tick ∧ x.tick ≤ 255
  latched : 1 ≤ x.latchedTick ∧ x.latchedTick ≤ 255
  current : x.current.ok
  remaining : x.remaining ≤ 16065
  idle : x.state = .idle → x.remaining = 0 ∧ x.stepPending = false ∧ x.abort = .clear
  waiting : x.stepPending = true → x.remaining = 0
  trigger : x.trigger = none → x.triggerOut = false

/-- The tone memory, the players and the routes are in range (R136, R137, R140, R148). -/
structure TonesOk (s : State) : Prop where
  steps : ∀ a : Fin 256, s.steps[a].ok
  pitches : ∀ i : Fin 32, 1 ≤ s.pitches[i] ∧ s.pitches[i] ≤ 16384
  players : ∀ j : PlayerIx, PlayerOk s.players[j]
  routes : ∀ r : Fin 6, gainOk s.routes[r].gain

/-! ## Metering (R153, R158, R160) -/

/-- A supervisor's settings and exit level are in range, and its run counter lies within 0 to K, at K in ALARM (R160). -/
structure SupOk (x : Sup) : Prop where
  threshold : match x.mode with
    | .silence => x.threshold + x.hyst ≤ 15
    | .overload => x.hyst ≤ x.threshold ∧ x.threshold ≤ 15
  hyst : 1 ≤ x.hyst ∧ x.hyst ≤ 3
  count : 1 ≤ x.count ∧ x.count ≤ 15
  run : x.run ≤ x.count
  alarm : x.alarm = true → x.run = x.count

/-- The meter settings, phases and codes are in range, the points that get no reports have clear clip flags, and the supervisors
are in range (R153, R158, R160). -/
structure MetersOk (s : State) : Prop where
  window : 6 ≤ s.meter.window ∧ s.meter.window ≤ 12
  inUse : 6 ≤ s.meter.windowInUse ∧ s.meter.windowInUse ≤ 12
  repeats : 2 ≤ s.meter.repeats ∧ s.meter.repeats ≤ 255
  left : s.meter.periodsLeft ≤ 32512
  stopped : s.meter.phase = .stopped ↔ s.meter.periodsLeft = 0
  codes : ∀ n : PointIx, s.points[n].code ≤ 15
  clips : ∀ n : PointIx, n.val < 24 ∨ (48 ≤ n.val ∧ n.val < 64) ∨ 69 ≤ n.val → s.points[n].clip = false
  sups : ∀ n : SupIx, SupOk s.sups[n]

/-! ## Lines, links, pins, clock and ports (R35, R166, R175, R183, R194) -/

/-- Every history holds at most three samples and every count of LS is within its range (R35, R36). -/
structure LinesOk (s : State) : Prop where
  samples : ∀ n : LineIx, s.lines[n].ring.length ≤ 3 ∧ s.lines[n].loop.length ≤ 3
  links : ∀ n : LinkIx, s.links[n].link.length ≤ 3 ∧ s.links[n].valid.length ≤ 3
  counts : ∀ n : LineIx, s.lines[n].ringCount ≤ 9000 ∧ s.lines[n].answerCount ≤ 3000 ∧ s.lines[n].dropCount ≤ 900 ∧
    s.lines[n].clearingCount ≤ 750

/-- Every GPI history holds at most three samples, a GPO pin at a constant has that constant as its active value, and a cell
that is off with no restart pending stands at 0 (R166, R173, R175). -/
structure LogicOk (s : State) : Prop where
  samples : ∀ n : PinIx, s.gpis[n].length ≤ 3
  constant : ∀ (g : PinIx) (b : Bool), s.gpos[g].selection = .const b → s.gpos[g].active = b
  off : ∀ c : CellIx, s.cells[c].enable = false → s.cells[c].restart = false →
    s.cells[c].held = false ∧ s.cells[c].filtered = false ∧ s.cells[c].previous = false ∧ s.cells[c].output = false

/-- The settle count runs only in RELOCK and is at most 4096, the exponent is 8 to 12, and each fade-in belongs to its lock
state (R194, R195, R196). -/
structure ClockOk (c : Clock) : Prop where
  exponent : 8 ≤ c.exponent ∧ c.exponent ≤ 12
  settle : c.settle ≤ 4096
  relock : c.lock = .relock ↔ c.settle ≠ 0
  owed : c.fadeInOwed = true → c.lock = .freeRun
  first : c.firstLocked = true → c.lock = .locked

/-- Every reply slot holds at most 124 bytes (R183). -/
def SlotsOk (s : State) : Prop := ∀ q : PortIx, s.ports[q].slot.body.length ≤ 124

/-! ## The mix engine (R51, R54, R60, R81) -/

/-- A coefficient across a period stays within that of code 0 (R51). -/
def Ramp.ok (r : Ramp) : Prop := r.old ≤ 32690 ∧ r.new ≤ 32690

/-- A feed that a party may be given: a bus-derived one has the party in its own subtraction set (R60, R82). -/
def Feed.without (p : PartyIx) : Feed → Prop
  | .silence | .air _ => True
  | .bus _ minus _ => minus[p] = true

/-- The stored send gains are gain codes, every coefficient is within range, those of talkback among them, every bus-derived
feed of a party leaves the party out, and a party has a term on at most one bus at the end of a period (R51, R54, R60, R81). -/
structure MixOk (s : State) : Prop where
  gains : ∀ (n : StudioIx) (b : BusIx), gainOk s.mix.sends[n][b].gain
  sends : ∀ (n : StudioIx) (b : BusIx), s.mix.sendCoef[n][b].ok
  sources : ∀ (p : PartyIx) (b : BusIx), s.partyMix[p].source[b].ok
  returns : ∀ p : PartyIx, s.partyMix[p].ret.ok ∧ s.partyMix[p].tone.ok ∧ s.partyMix[p].duck.ok
  talks : ∀ p : PartyIx, (∀ u, s.partyMix[p].keyUse = some u → u.talk.ok) ∧ ∀ u, s.partyMix[p].leaving = some u → u.talk.ok
  feeds : ∀ p : PartyIx, s.partyMix[p].feedOld.without p ∧ s.partyMix[p].feedNew.without p
  oneBus : ∀ (p : PartyIx) (a b : BusIx), s.partyMix[p].source[a].new ≠ 0 → s.partyMix[p].source[b].new ≠ 0 → a = b

end Sys2Proof.Machine
end

