-- ==== Sys2Proof/Certificates/Slice0/Obligations.lean ====
section
/-! DEFINITION. The statements about the part, one for each entry of OBLIGATIONS.json. -/

section

open Sys2Proof Sys2Proof.Machine

/-! ## Steps, RESET and the ports (chapters 1 and 10, 11.1) -/

/-- A step of a state with a command at the front of its queue is the command's effect on the state with the queue's rest; with
an empty queue the part stands (the queue and the idle step are the model's own: logs 1 and 2). -/
def Obligations.StepTakesTheFrontCommand : Prop :=
  (∀ (c : Instr) (s : State), step { s with pending := c :: s.pending } = exec c s) ∧
  ∀ s : State, s.pending = [] → step s = .next s

/-- No command faults or is refused, none touches the queue, and while RESET is asserted none but RESET and RESET_RELEASE changes
anything (R180, R192; the last is the model's reading, log 5). -/
def Obligations.EveryCommandCompletes : Prop :=
  (∀ (c : Instr) (s : State), ∃ t, exec c s = .next t ∧ t.pending = s.pending) ∧
  ∀ (c : Instr) (s : State), s.inReset = true → c ≠ .reset → (∀ x, c ≠ .resetRelease x) → exec c s = .next s

/-- RESET sets every party record as R2 lists it; no supervision cause is handed for an IDLE line or an OFFLINE codec while its
filter has not filled; and a codec's first change after RESET brings its count to 1. -/
def Obligations.ResetSetsEveryRecord : Prop :=
  (∀ s : State, ∃ t, exec .reset s = .next t ∧ t.handed = [] ∧
    ∀ p : PartyIx, t.parties[p] =
      { state := if p.val < 16 then .idle else .offline, programme := 0, changes := 0, sourceGain := 12, returnGain := 12,
        group := 0, foldBack := true, toneMute := false, echoMark := none }) ∧
  (∀ (s : State) (n : LineIx), s.inReset = false → s.parties[n.val].state = .idle → s.lines[n].ring.length < 3 →
    exec (.partyEvaluation ⟨n.val, by omega⟩) s = .next s) ∧
  (∀ (s : State) (n : LinkIx), s.inReset = false → s.parties[n.val + 16].state = .offline → s.links[n].link.length < 3 →
    exec (.partyEvaluation ⟨n.val + 16, by omega⟩) s = .next s) ∧
  ∀ n : LinkIx, ∃ t, exec (.linkUp ⟨n.val + 16, by omega⟩) State.reset = .next t ∧
    t.parties[n.val + 16].state = .standby ∧ t.parties[n.val + 16].changes = 1

/-- RESET sets every record of the other blocks: LS (R35, R41), ME (R54, R74, R76, R78), FBA (R92, R95, R96), AD (R112, R114),
TP (R136, R137, R140, R148), LM (R153, R160), LC (R166, R169, R175), CU (R194), the output slots and the lines of the audio
ports, held low (R192), those of the delay memory port (R197), which its release leaves so (log 18), and, but for their roles,
the ports (R183, R191). The values of the items for which the spec lists none are the model's: the target, the ratio and the
memory mode in use, the held step, the frame and period counts, the values formed, the accesses and writers recorded, the gates
and old coefficients of ME and the mark of the first LOCKED period (log 27). -/
def Obligations.ResetSetsTheOtherBlocks : Prop :=
  ∀ s : State, ∃ t, exec .reset s = .next t ∧ t.inReset = true ∧ t.pending = s.pending ∧
    (∀ n : LineIx, t.lines[n] =
      { ring := [], loop := [], loopSeen := false, ringCount := 0, answerCount := 0, dropCount := 0, clearingCount := 0 }) ∧
    (∀ n : LinkIx, t.links[n] = { link := [], valid := [] }) ∧ dropTime t.dropCode = 450 ∧
    (∀ (n : StudioIx) (b : BusIx), t.mix.sends[n][b] = { gain := 255, excluded := false } ∧
      t.mix.sendCoef[n][b] = { old := 0, new := 0 }) ∧
    t.mix.monitor = 24 ∧ t.mix.monitorOld = 24 ∧ t.mix.monitorNew = 24 ∧ t.mix.frame = 0 ∧ t.mix.period = 0 ∧
    (∀ p : PartyIx, t.foldBacks[p] = { list := [], inService := none } ∧ t.partyMix[p] =
      { source := Vector.replicate 5 { old := 0, new := 0 }, heard := false, feedOld := .silence, feedNew := .silence,
        duck := { old := 16384, new := 16384 }, leaving := none, keyUse := none, ret := { old := 16384, new := 16384 },
        tone := { old := 0, new := 0 }, tonePlayers := Vector.replicate 4 false }) ∧
    (∀ f ∈ [t.formed, t.formedBefore], f =
      { index := 0, buses := Vector.replicate 5 0, air := Vector.replicate 2 0, returns := Vector.replicate 24 0, monitor := 0 }) ∧
    (∀ k : KeyIx, t.keys[k] =
      { source := ⟨k.val, by omega⟩, priority := k, duck := 24, talk := 12, dest := Vector.replicate 24 false, trigger := none,
        latches := Vector.replicate 3 false, triggerOut := false, active := false }) ∧
    t.memSize = .a18 ∧ t.memInUse = .a18 ∧ t.sram = [] ∧ t.writers = [] ∧ t.memPort = Vector.replicate 2 [] ∧
    (∀ d : Programme, ratioOf t.delays[d].ratioCode = 4 ∧ t.delays[d] =
      { w := 0, rd := 0, state := .bypass, target := 0, segment := 0, ratioCode := 1, qEnter := 2, qLeave := 4, quiet := false,
        peak := 0, last := 0, dumps := 0, dumpPending := false, lastJump := 0, holdFeed := .pre, trigger := none,
        triggerOut := false, targetInUse := 0, ratioInUse := 1 }) ∧
    (∀ a : Fin 256, t.steps[a] = { pitch := 0, length := 1, level := 0, last := true }) ∧ (∀ i : Fin 32, t.pitches[i] = 1) ∧
    (∀ j : PlayerIx, t.players[j] =
      { start := 0, tick := 1, mode := .oneshot, trigger := none, triggerOut := false, state := .idle, abort := .clear,
        latchedStart := 0, latchedTick := 1, stepAddr := 0, stepPending := false, remaining := 0, phase := 0,
        current := { pitch := 0, length := 1, level := 0, last := true } }) ∧
    (∀ r : Fin 6, t.routes[r] = { players := Vector.replicate 4 false, gain := 255 }) ∧
    t.meter = { mode := .off, window := 10, repeats := 2, phase := .stopped, windowInUse := 10, periodsLeft := 0, measurements := 0 } ∧
    (∀ n : PointIx, t.points[n] = { acc := 0, code := 0, valid := false, clip := false }) ∧
    (∀ n : SupIx, t.sups[n] =
      { enable := false, point := 64, mode := .silence, threshold := 2, count := 15, hyst := 2, alarm := false, run := 0 }) ∧
    (∀ n : PinIx, t.gpis[n] = [] ∧ t.gpos[n] = { selection := .const false, activeLow := false, active := false }) ∧
    (∀ c : CellIx, t.cells[c] =
      { enable := false, in0 := 0, in1 := 0, in2 := 0, table := 0, filter := .none, edge := false, watched := 0, restart := false,
        held := false, filtered := false, previous := false, output := false }) ∧
    t.clock = { lock := .freeRun, settle := 0, exponent := 10, fadeInOwed := false, firstLocked := false } ∧
    (∀ n : StudioIx, t.sent.tel[n] = 0 ∧ t.sent.stu[n] = 0) ∧ (∀ n : LinkIx, t.sent.cdc[n] = 0) ∧
    (∀ (port : AudioPort) (n : Nat) (risen : Bool),
      audioLines t port n risen = { fsync := false, bclk := false, dout := false }) ∧
    (∀ b : Bool, idleLines { t with inReset := b } = { mcs := true, mwe := true, moe := true, ma := 0, md := none }) ∧
    ∀ q : PortIx, t.ports[q].slot = { tag := 0, result := .ok, body := [] } ∧ t.ports[q].flags = 0 ∧ t.ports[q].mask = 0 ∧
      attn t q = false

/-- RESET_RELEASE gives each port the role of its straps (ENGINEERING, STUDIO-1, STUDIO-2 or SCREENER) and changes nothing else
but the pin and the frame count; no other command than RESET changes a role; READ STATUS reports the roles (R185; that a release
acts whether or not RESET is asserted is the model's choice, log 6). -/
def Obligations.RolesAreFixedAtRelease : Prop :=
  (∀ (straps : Vector Straps 3) (s : State), ∃ t, exec (.resetRelease straps) s = .next t ∧
    (∀ q : PortIx, t.ports[q] = { s.ports[q] with role :=
      match straps[q] with
      | ⟨false, false⟩ => .engineering
      | ⟨false, true⟩ => .studio 0
      | ⟨true, false⟩ => .studio 1
      | ⟨true, true⟩ => .screener }) ∧
    t = { s with inReset := false, ports := t.ports, mix := { s.mix with frame := 0, period := 0 } }) ∧
  (∀ (c : Instr) (s t : State), c ≠ .reset → (∀ x, c ≠ .resetRelease x) → exec c s = .next t →
    ∀ q : PortIx, t.ports[q].role = s.ports[q].role) ∧
  ∀ (s : State) (q : PortIx) (tag : Byte), s.inReset = false → ∃ t, exec (.readStatus q tag []) s = .next t ∧
    ∀ j : PortIx, t.ports[q].slot.body[4 + j.val]? = some (match s.ports[j].role with
      | .engineering => 0
      | .studio k => if k = 0 then 1 else 2
      | .screener => 3)

/-- A transaction without a whole byte, or whose CS fell in RESET, carries no command (R180). The data output is high-impedance
while CS is high; while it is low the port shifts out the slot as it stood when CS fell, tag, result, length and body, most
significant bit first, and then zeros (R180, R183; that it does so too in RESET, and in a transaction ignored because its CS fell
in RESET, is the model's choice, log 24). Bytes that are no whole frame are answered FRAME, with the tag received, or
0 for fewer than two bytes, and a length of 0, and nothing else is done; a whole frame is taken with the bytes after it ignored
(R181). A NOP leaves the slot and all state; a number that names no command is answered UNKNOWN with its tag and a length of 0,
and nothing else is done. -/
def Obligations.TransactionsFrameCheckNopAndUnknown : Prop :=
  (∀ (q : PortIx) (bits : List Bool), decodeTransaction q true bits = none ∧
    (bits.length < 8 → decodeTransaction q false bits = none)) ∧
  (∀ (s : State) (q : PortIx) (n : Nat), dataOutput true s q n = none ∧
    let x := s.ports[q].slot
    let result : Byte := match x.result with
      | .ok => 0 | .adjusted => 1 | .already => 2 | .stale => 3 | .notAllowed => 4 | .illegal => 5 | .busy => 6 | .frame => 7
      | .unknown => 8
    let bytes : List Byte := x.tag :: result :: BitVec.ofNat 8 x.body.length :: x.body
    (∀ (i : Nat) (b : Fin 8), n = 8 * i + b.val → dataOutput false s q n =
      some (if h : i < bytes.length then bytes[i].getLsbD (7 - b.val) else false)) ∧
    shiftedOut s q n = bytes.take n ++ List.replicate (n - bytes.length) 0) ∧
  (∀ (q : PortIx) (bytes : List Byte), bytes ≠ [] →
    (bytes.length < 3 ∨ 124 < (bytes.getD 2 0).toNat ∨ bytes.length < 3 + (bytes.getD 2 0).toNat) →
    decodeFrame q bytes = some (.frameAnswer q bytes)) ∧
  (∀ (q : PortIx) (n tag len : Byte) (rest : List Byte), len.toNat ≤ 124 → len.toNat ≤ rest.length →
    decodeFrame q (n :: tag :: len :: rest) = some (commandOf q n tag (rest.take len.toNat))) ∧
  (∀ (s : State) (q : PortIx) (bytes : List Byte), s.inReset = false →
    ∃ t, exec (.frameAnswer q bytes) s = .next t ∧ t = { s with ports := t.ports } ∧
      Replied q (if bytes.length < 2 then 0 else bytes.getD 1 0) .frame [] 0 s t) ∧
  (∀ (s : State) (q : PortIx) (tag : Byte) (pl : List Byte), commandOf q 0 tag pl = .nop q tag pl ∧
    exec (.nop q tag pl) s = .next s) ∧
  (∀ (q : PortIx) (n tag : Byte) (pl : List Byte), unknownNumber n = true → commandOf q n tag pl = .unknownCommand q n tag pl) ∧
  ∀ (s : State) (q : PortIx) (n tag : Byte) (pl : List Byte), s.inReset = false →
    ∃ t, exec (.unknownCommand q n tag pl) s = .next t ∧ t = { s with ports := t.ports } ∧ Replied q tag .unknown [] 0 s t

/-- The frame of every well-formed control port command, with its payload at every length and value, is decoded to that command:
from its bytes, from its bytes with others after them (a FRAME answer apart, which concerns a cut frame), and from its bits with
those of a byte left incomplete after them (R180, R181, R182, R198). -/
def Obligations.DecodeOfEncodeIsTheCommand : Prop :=
  ∀ (i : Instr) (q : PortIx) (bytes : List Byte), i.wellFormed = true → encodeFrame i = some (q, bytes) →
    decodeFrame q bytes = some i ∧
    ((∀ j b, i ≠ .frameAnswer j b) → ∀ extra, decodeFrame q (bytes ++ extra) = some i) ∧
    ∀ tail : List Bool, tail.length < 8 → decodeTransaction q false (bytes.flatMap bitsOfByte ++ tail) = some i

/-! ## Reads, events and replies (R32, R33, R183, R187 to R190, R198, R199) -/

/-- Each read without operand is answered OK with the body of its block, of the length that the wire formats give it, changes
nothing but the slot of its port, and is answered ILLEGAL with no payload where it carries one. READ STATUS gives the family
code, the revision, the port, the three roles and the lock state. The bodies give the entries of the keys, players, delays,
supervisors, cells and points in order, each laid out byte for byte, a trigger cell of none as 8, a number of two or four bytes
most significant first and a set as its bits (R187, R33, R106, R149, R132, R164, R165, R178, R198, R200; the codes of NORMAL and
ALARM are log 19). The bits of the latch, GPI, cell, GPO and meter point bytes that R200 does not name are sent as 0, which is the
model's choice (log 33). -/
def Obligations.PlainReadsAnswer : Prop :=
  let b : Nat → Byte := fun n => BitVec.ofNat 8 n
  let one : Bool → Nat := fun x => if x then 1 else 0
  let two : Nat → List Byte := fun n => [b (n / 256), b n]
  let four : Nat → List Byte := fun n => [b (n / 16777216), b (n / 65536), b (n / 256), b n]
  let trig : Option CellIx → Byte := fun x => match x with | none => 8 | some c => b c.val
  (∀ e ∈ ([(.readStatus, statusBody, 8), (.readTable, fun _ => tableBody, 72), (.readKeys, fun _ => keysBody, 40),
      (.readPlayers, fun _ => playersBody, 52), (.readDelay, fun _ => delaysBody, 65), (.readMeters, fun _ => metersBody, 80),
      (.readSupervisors, fun _ => supsBody, 64), (.readLogic, fun _ => logicBody, 78)] :
      List ((PortIx → Byte → List Byte → Instr) × (PortIx → State → List Byte) × Nat)),
    ∀ (s : State) (q : PortIx) (tag : Byte) (pl : List Byte), s.inReset = false →
      ∃ t, exec (e.1 q tag pl) s = .next t ∧ t = { s with ports := t.ports } ∧ (e.2.1 q s).length = e.2.2 ∧
        if pl = [] then Replied q tag .ok (e.2.1 q s) 0 s t else Replied q tag .illegal [] 0 s t) ∧
  (∀ s : State,
    (∀ q : PortIx, statusBody q s =
      [0x24, 0x16, 1, b q.val, s.ports[0].role.code, s.ports[1].role.code, s.ports[2].role.code,
        match s.clock.lock with | .freeRun => 0 | .relock => 1 | .locked => 2]) ∧
    (∀ k : KeyIx, ((keysBody s).drop (10 * k.val)).take 10 = keyEntry s k) ∧
    (∀ j : PlayerIx, ((playersBody s).drop (13 * j.val)).take 13 = playerEntry s j) ∧
    (delaysBody s).head? = some (match s.memSize with | .a18 => 0 | .a20 => 1 | .a22 => 2) ∧
    (∀ d : Programme, ((delaysBody s).drop (1 + 32 * d.val)).take 32 = delayEntry s d ∧ delayBody s d = b (d.val + 1) :: delayEntry s d) ∧
    (∀ n : SupIx, ((supsBody s).drop (8 * n.val)).take 8 = supEntry s n) ∧
    (metersBody s).take 9 = meterBody s ∧
    (∀ n : PointIx, (metersBody s)[9 + n.val]? =
      some (b (s.points[n].code % 16 + (if s.points[n].valid then 16 else 0) + (if s.points[n].clip then 32 else 0)))) ∧
    (∀ n : PinIx, s.gpis[n].length ≤ 3 → (logicBody s)[n.val]? = some (b (s.gpis[n].length + 4 * one (filtered s.gpis[n])))) ∧
    (∀ c : CellIx, ((logicBody s).drop (8 + 7 * c.val)).take 7 = cellEntry s.cells[c]) ∧
    (∀ g : PinIx, (logicBody s)[64 + g.val]? = some (gpoByte s.gpos[g])) ∧
    (∀ i : Fin 48, ((logicBody s).getD (77 - i.val / 8) 0).getLsbD (i.val % 8) =
      if h : i.val < 46 then decide (3 ≤ i.val ∧ i.val ≠ 17 ∧ i.val ≠ 18) && signal s 0 ⟨i.val, h⟩ else false)) ∧
  (∀ (s : State) (k : KeyIx), ∃ d2 d1 d0 : Byte,
    (∀ p : PartyIx, (d2 ++ d1 ++ d0 : BitVec 24).getLsbD p.val = s.keys[k].dest[p]) ∧
    keyEntry s k = [b s.keys[k].source.val, b s.keys[k].priority.val, s.keys[k].duck, s.keys[k].talk, d2, d1, d0,
      trig s.keys[k].trigger,
      b (one s.keys[k].latches[0] + 2 * one s.keys[k].latches[1] + 4 * one s.keys[k].latches[2] + 8 * one s.keys[k].triggerOut +
        16 * one s.keys[k].active),
      b (∑ p : PartyIx, if s.foldBacks[p].inService = some k then 1 else 0)]) ∧
  (∀ (s : State) (j : PlayerIx), let x := s.players[j]
    playerEntry s j = [x.start, b x.tick, match x.mode with | .oneshot => 0 | .continuous => 1, trig x.trigger, b (one x.triggerOut),
      match x.state with | .idle => 0 | .playing => 1 | .stopping => 2,
      match x.abort with | .clear => 0 | .requested => 1 | .fading => 2,
      b (one x.stepPending), x.latchedStart, b x.latchedTick, x.stepAddr] ++ two x.remaining) ∧
  (∀ (s : State) (k : Programme), let d := s.delays[k]
    delayEntry s k = (match d.state with
        | .bypass => 0 | .building => 1 | .atTarget => 2 | .shrinking => 3 | .dumpOut => 4 | .dumpIn => 5) ::
      (four d.w.toNat ++ four d.rd.toNat ++ four (d.w - d.rd).toNat ++ four d.target ++ two d.segment ++
        [b d.ratioCode.val, b d.qEnter, b d.qLeave, b (one d.quiet), b d.dumps, b (one d.dumpPending)] ++ four d.lastJump ++
        [match d.holdFeed with | .pre => 0 | .air => 1, trig d.trigger, b (one d.triggerOut)])) ∧
  (∀ (s : State) (n : SupIx), let x := s.sups[n]
    supEntry s n = [b (one x.enable), b x.point.val, match x.mode with | .silence => 0 | .overload => 1, b x.threshold, b x.count,
      b x.hyst, b (one x.alarm), b x.run]) ∧
  (∀ s : State, let x := s.meter
    meterBody s = [match x.mode with | .off => 0 | .continuous => 1 | .periodic => 2, b x.window, b x.repeats,
      match x.phase with | .stopped => 0 | .measuring => 1 | .waiting => 2, if x.phase = .measuring then 1 else 0,
      b x.windowInUse] ++ two x.periodsLeft ++ [x.measurements]) ∧
  (∀ x : Cell, cellEntry x = [b x.in0.val, b x.in1.val, b x.in2.val, x.table, b x.watched.val,
    b (one x.enable + 2 * one x.edge + 4 * (match x.filter with | .none => 0 | .sync => 1 | .stable => 2)),
    b (one x.restart + 2 * one x.held + 4 * one x.filtered + 8 * one x.previous + 16 * one x.output)]) ∧
  (∀ g : Gpo, gpoByte g = b
    ((match g.selection with | .cell c => c.val | .const x => 8 + one x) + 16 * one g.activeLow + 32 * one g.active +
      64 * one (g.active ^^ g.activeLow))) ∧
  (∀ (m : Mask 24) (p : PartyIx), (maskNat m).testBit p.val = m[p]) ∧
  ∀ (m : Mask 4) (j : PlayerIx), (maskNat m).testBit j.val = m[j]

/-- READ TABLE carries no operand, may come on any port, and gives state, programme and change count of all 24 parties in index
order. READ PARTY gives one record as the wire formats lay it out, in eighteen bytes; an index above 23 or a payload of another
length is ILLEGAL with no payload (R32, R33, R199). A state is sent as its code of R198, IDLE 0 to STANDBY 9. That
bits 7 to 2 of the supervision flags, byte 17, are sent as 0 is the model's choice (log 33). -/
def Obligations.TheTableIsRead : Prop :=
  (PState.idle.code = 0 ∧ PState.ringing.code = 1 ∧ PState.screen.code = 2 ∧ PState.hold.code = 3 ∧ PState.ready.code = 4 ∧
    PState.priv.code = 5 ∧ PState.air.code = 6 ∧ PState.clearing.code = 7 ∧ PState.offline.code = 8 ∧ PState.standby.code = 9) ∧
  (∀ (s : State) (q : PortIx) (tag : Byte), s.inReset = false →
    (∃ t body, exec (.readTable q tag []) s = .next t ∧ t = { s with ports := t.ports } ∧ Replied q tag .ok body 0 s t ∧
      body.length = 72 ∧
      ∀ p : PartyIx, body[3 * p.val]? = some s.parties[p].state.code ∧
        body[3 * p.val + 1]? = some (programmeCode s.parties[p].programme) ∧
        body[3 * p.val + 2]? = some s.parties[p].changes) ∧
    ∀ pl : List Byte, pl ≠ [] → ∃ t, exec (.readTable q tag pl) s = .next t ∧ t = { s with ports := t.ports } ∧
      Replied q tag .illegal [] 0 s t) ∧
  (∀ (s : State) (q : PortIx) (tag : Byte) (p : PartyIx), s.inReset = false →
    ∃ t, exec (.readParty q tag [0, byte p.val]) s = .next t ∧ t = { s with ports := t.ports } ∧
      Replied q tag .ok
        [0, byte p.val, if p.val < 16 then 0 else 1, s.parties[p].state.code, byte (s.parties[p].programme.val + 1),
          s.parties[p].changes, s.parties[p].sourceGain, s.parties[p].returnGain, byte s.parties[p].group.val,
          if s.parties[p].foldBack then 1 else 0, if s.parties[p].toneMute then 1 else 0,
          if s.parties[p].echoMark.isSome then 1 else 0, ((s.parties[p].echoMark.getD 0).extractLsb' 24 8),
          ((s.parties[p].echoMark.getD 0).extractLsb' 16 8), ((s.parties[p].echoMark.getD 0).extractLsb' 8 8),
          ((s.parties[p].echoMark.getD 0).extractLsb' 0 8),
          match s.foldBacks[p].inService with
          | some k => byte k.val
          | none => 255,
          byte ((if filteredFirst s p then 1 else 0) + (if filteredSecond s p then 2 else 0))] 0 s t) ∧
  ∀ (s : State) (q : PortIx) (tag : Byte) (pl : List Byte), s.inReset = false →
    (pl.length ≠ 2 ∨ ∃ h l, pl = [h, l] ∧ 24 ≤ h.toNat * 256 + l.toNat) →
    ∃ t, exec (.readParty q tag pl) s = .next t ∧ t = { s with ports := t.ports } ∧ Replied q tag .illegal [] 0 s t

/-- READ EVENTS without payload gives the port's flags as they stand and its mask, clears its flags and releases its ATTN, and
touches no flag of the other ports; with a payload it is ILLEGAL and clears nothing (R190). That the bits of the flags sent which
name no flag are 0 is the model's choice (log 33). -/
def Obligations.ReadEventsReportsAndClears : Prop :=
  ∀ (s : State) (q : PortIx) (tag : Byte), s.inReset = false →
    (∃ t, exec (.readEvents q tag []) s = .next t ∧ t = { s with ports := t.ports } ∧
      SameBut q s.ports t.ports ∧ attn t q = false ∧
      t.ports[q] = { s.ports[q] with
        slot := { tag := tag, result := .ok,
                  body := [(s.ports[q].flags.setWidth 16).extractLsb' 8 8, (s.ports[q].flags.setWidth 16).extractLsb' 0 8,
                    (s.ports[q].mask.setWidth 16).extractLsb' 8 8, (s.ports[q].mask.setWidth 16).extractLsb' 0 8] },
        flags := 0 }) ∧
    ∀ pl : List Byte, pl ≠ [] → ∃ t, exec (.readEvents q tag pl) s = .next t ∧ t = { s with ports := t.ports } ∧
      Replied q tag .illegal [] 0 s t

/-- ATTN of a port is low exactly while the port holds a flag that its mask enables; at RESET every mask is clear and every ATTN
released. SET EVENT MASK stores the eleven enables of the sending port alone, for every role, answers ADJUSTED where one of the
five other bits was sent as 1, clears no flag and raises no event, and replies with the mask as stored and the flags as they
stand; another length is ILLEGAL (R189). That the bits of the flags sent which name no flag are 0 is the model's choice (log
33). -/
def Obligations.SetEventMaskStoresTheEnables : Prop :=
  (∀ (s : State) (q : PortIx), attn s q = true ↔
    ∃ e : Event, s.ports[q].flags.getLsbD e.bit = true ∧ s.ports[q].mask.getLsbD e.bit = true) ∧
  (∀ s : State, ∃ t, exec .reset s = .next t ∧ ∀ q : PortIx, t.ports[q].mask = 0 ∧ attn t q = false) ∧
  ∀ (s : State) (q : PortIx) (tag : Byte), s.inReset = false →
    (∀ h l : Byte, ∃ t, exec (.setEventMask q tag [h, l]) s = .next t ∧ t = { s with ports := t.ports } ∧
      SameBut q s.ports t.ports ∧
      t.ports[q] = { s.ports[q] with
        mask := (h ++ l : BitVec 16).setWidth 11
        slot := { tag := tag, result := if 8 ≤ h.toNat then .adjusted else .ok,
                  body := [h &&& 7, l, (s.ports[q].flags.setWidth 16).extractLsb' 8 8,
                    (s.ports[q].flags.setWidth 16).extractLsb' 0 8] } }) ∧
    ∀ pl : List Byte, pl.length ≠ 2 → ∃ t, exec (.setEventMask q tag pl) s = .next t ∧ t = { s with ports := t.ports } ∧
      Replied q tag .illegal [] 0 s t

/-- A command on one port leaves the reply slots of the other two, a command that comes on no port leaves all three, and RESET
alone empties them (R183). -/
def Obligations.OtherSlotsStand : Prop :=
  ∀ (c : Instr) (s t : State), c ≠ .reset → exec c s = .next t →
    ∀ j : PortIx, (∀ bytes, encodeFrame c ≠ some (j, bytes)) → t.ports[j].slot = s.ports[j].slot

/-- An event flag once set falls at RESET or at a READ EVENTS of its own port, and at no other command (R188, R190). -/
def Obligations.FlagsFallOnlyByReading : Prop :=
  ∀ (c : Instr) (s t : State) (j : PortIx), c ≠ .reset → (∀ tag pl, c ≠ .readEvents j tag pl) → exec c s = .next t →
    ∀ e : Event, s.ports[j].flags.getLsbD e.bit = true → t.ports[j].flags.getLsbD e.bit = true

/-! ## The party table (chapter 1) -/

/-- ANSWER moves a phone from RINGING to SCREEN from any role, with its programme unchanged: a connection, which enters the active
keys that name the party in key-number order and serves the highest where fold-back is on; loop seen and the counts restart and
SEIZE is driven; with the party's own state expected, any other phone state and any codec is ILLEGAL (R19, R11, R102, R39). -/
def Obligations.AnswerConnectsARingingPhone : Prop :=
  (∀ (s : State) (q : PortIx) (tag k : Byte) (n : LineIx) (p : PartyIx), s.inReset = false → p.val = n.val →
    s.parties[p].state = .ringing →
    ∃ t, exec (.answer q tag (statePayload p .ringing k)) s = .next t ∧ OnlyParty p s t ∧ t.handed = s.handed ∧
      t.parties[p] = { s.parties[p] with state := .screen, changes := s.parties[p].changes + 1 } ∧
      t.foldBacks[p].list = (List.finRange 4).filter (fun j => s.keys[j].active && s.keys[j].dest[p]) ∧
      (∀ j, t.foldBacks[p].inService = some j → Selected (priorityOf s) t.foldBacks[p].list j) ∧
      (t.foldBacks[p].inService = none ↔ t.foldBacks[p].list = [] ∨ s.parties[p].foldBack = false) ∧
      t.lines[n] = { s.lines[n] with
        loopSeen := false, ringCount := 0, answerCount := 0, dropCount := 0, clearingCount := 0 } ∧
      seize t p = true ∧
      Replied q tag .ok (stateReply p .screen s.parties[p].programme (s.parties[p].changes + 1)) Event.party.flagOf s t) ∧
  ∀ (s : State) (q : PortIx) (tag k : Byte) (p : PartyIx), s.inReset = false →
    (16 ≤ p.val ∨ s.parties[p].state ≠ .ringing) →
    ∃ t, exec (.answer q tag (statePayload p s.parties[p].state k)) s = .next t ∧ t = { s with ports := t.ports } ∧
      Replied q tag .illegal (stateReply p s.parties[p].state s.parties[p].programme s.parties[p].changes) 0 s t

/-- SCREEN moves a phone from HOLD, READY or PRIVATE to SCREEN with its programme unchanged; a mark held in HOLD or READY is
removed. READY k moves a phone from SCREEN or HOLD to READY and sets its programme to k; a mark stays where the programme does.
Both are for ENGINEERING and SCREENER; from the other states and on a codec both are ILLEGAL (R20, R22, R13). -/
def Obligations.ScreenAndReadyMoveAPhone : Prop :=
  (∀ (s : State) (q : PortIx) (tag k : Byte) (p : PartyIx) (e : PState), s.inReset = false → p.val < 16 →
    s.ports[q].role = .engineering ∨ s.ports[q].role = .screener → s.parties[p].state = e → e ∈ [PState.hold, .ready, .priv] →
    ∃ t, exec (.screen q tag (statePayload p e k)) s = .next t ∧ OnlyParty p s t ∧ t.handed = s.handed ∧
      t.parties[p] = { s.parties[p] with
        state := .screen, changes := s.parties[p].changes + 1
        echoMark := if e = .priv then s.parties[p].echoMark else none } ∧
      t.foldBacks = s.foldBacks ∧ t.lines = s.lines ∧
      Replied q tag .ok (stateReply p .screen s.parties[p].programme (s.parties[p].changes + 1)) Event.party.flagOf s t) ∧
  (∀ (s : State) (q : PortIx) (tag k : Byte) (p : PartyIx), s.inReset = false →
    s.ports[q].role = .engineering ∨ s.ports[q].role = .screener →
    (16 ≤ p.val ∨ s.parties[p].state ∉ [PState.hold, .ready, .priv]) →
    ∃ t, exec (.screen q tag (statePayload p s.parties[p].state k)) s = .next t ∧ t = { s with ports := t.ports } ∧
      Replied q tag .illegal (stateReply p s.parties[p].state s.parties[p].programme s.parties[p].changes) 0 s t) ∧
  (∀ (s : State) (q : PortIx) (tag : Byte) (j : Programme) (p : PartyIx) (e : PState), s.inReset = false → p.val < 16 →
    s.ports[q].role = .engineering ∨ s.ports[q].role = .screener → s.parties[p].state = e → e ∈ [PState.screen, .hold] →
    ∃ t, exec (.ready q tag (statePayload p e (programmeCode j))) s = .next t ∧ OnlyParty p s t ∧ t.handed = s.handed ∧
      t.parties[p] = { s.parties[p] with
        state := .ready, programme := j, changes := s.parties[p].changes + 1
        echoMark := if j = s.parties[p].programme then s.parties[p].echoMark else none } ∧
      t.foldBacks = s.foldBacks ∧ t.lines = s.lines ∧
      Replied q tag .ok (stateReply p .ready j (s.parties[p].changes + 1)) Event.party.flagOf s t) ∧
  ∀ (s : State) (q : PortIx) (tag : Byte) (j : Programme) (p : PartyIx), s.inReset = false →
    s.ports[q].role = .engineering ∨ s.ports[q].role = .screener →
    (16 ≤ p.val ∨ s.parties[p].state ∉ [PState.screen, .hold]) →
    ∃ t, exec (.ready q tag (statePayload p s.parties[p].state (programmeCode j))) s = .next t ∧
      t = { s with ports := t.ports } ∧
      Replied q tag .illegal (stateReply p s.parties[p].state s.parties[p].programme s.parties[p].changes) 0 s t

/-- HOLD moves a phone from SCREEN, READY, PRIVATE or AIR to HOLD and a codec from PRIVATE or AIR to STANDBY, from any role the
studio restriction lets it, with the programme unchanged; a phone leaving AIR has the write count of its delay recorded as its
mark where that delay is not in BYPASS, and keeps it where the guard's test holds (R21, R12, R129). -/
def Obligations.HoldMovesAPartyAndRecordsItsMark : Prop :=
  ∀ (s : State) (q : PortIx) (tag k : Byte) (p : PartyIx) (e : PState), s.inReset = false → s.parties[p].state = e →
    (p.val < 16 ∧ e ∈ [PState.screen, .ready, .priv, .air]) ∨ (16 ≤ p.val ∧ e ∈ [PState.priv, .air]) →
    (∀ j, s.ports[q].role = .studio j → e = .air ∨ e = .priv → s.parties[p].programme = j) →
    ∃ t, exec (.hold q tag (statePayload p e k)) s = .next t ∧ OnlyParty p s t ∧ t.handed = s.handed ∧
      t.parties[p] = { s.parties[p] with
        state := if p.val < 16 then .hold else .standby
        changes := s.parties[p].changes + 1
        echoMark :=
          if p.val < 16 ∧ e = .air ∧ s.delays[s.parties[p].programme].state ≠ .bypass then
            if 1 ≤ s.delays[s.parties[p].programme].length ∧
                s.delays[s.parties[p].programme].length ≤ s.memSize.capacity then
              some s.delays[s.parties[p].programme].w
            else none
          else s.parties[p].echoMark } ∧
      t.foldBacks = s.foldBacks ∧ t.lines = s.lines ∧
      Replied q tag .ok
        (stateReply p (if p.val < 16 then .hold else .standby) s.parties[p].programme (s.parties[p].changes + 1))
        Event.party.flagOf s t

/-- PRIVATE k moves a phone from SCREEN, HOLD, READY or AIR and a codec from STANDBY or AIR to PRIVATE; TAKE k moves a phone
from HOLD, READY or PRIVATE and a codec from STANDBY or PRIVATE to AIR; each sets the programme to k, for ENGINEERING and for
the studio of k within the studio restriction, and removes a mark held in HOLD or READY (R23, R24, R13, R17). -/
def Obligations.PrivateAndTakeMoveAParty : Prop :=
  ∀ e ∈ ([(.privateTalk, PState.priv, [PState.screen, .hold, .ready, .air], [PState.standby, .air]),
      (.take, .air, [.hold, .ready, .priv], [.standby, .priv])] :
      List ((PortIx → Byte → List Byte → Instr) × PState × List PState × List PState)),
    ∀ (s : State) (q : PortIx) (tag : Byte) (j : Programme) (p : PartyIx), s.inReset = false →
      s.ports[q].role = .engineering ∨ s.ports[q].role = .studio j →
      (p.val < 16 ∧ s.parties[p].state ∈ e.2.2.1) ∨ (16 ≤ p.val ∧ s.parties[p].state ∈ e.2.2.2) →
      (s.ports[q].role = .studio j → s.parties[p].state = .air ∨ s.parties[p].state = .priv → s.parties[p].programme = j) →
      ∃ t, exec (e.1 q tag (statePayload p s.parties[p].state (programmeCode j))) s = .next t ∧ OnlyParty p s t ∧
        t.handed = s.handed ∧
        t.parties[p] = { s.parties[p] with
          state := e.2.1, programme := j, changes := s.parties[p].changes + 1
          echoMark :=
            if s.parties[p].state = .hold ∨ s.parties[p].state = .ready ∨ j ≠ s.parties[p].programme then none
            else s.parties[p].echoMark } ∧
        t.foldBacks = s.foldBacks ∧ t.lines = s.lines ∧
        Replied q tag .ok (stateReply p e.2.1 j (s.parties[p].changes + 1)) Event.party.flagOf s t

/-- DROP moves a connected phone to CLEARING from any role the studio restriction lets it: a teardown, which empties the request
list and ends the service, removes the mark, keeps the settings, drives SEIZE low and starts the clearing count; on a codec, from
RINGING, IDLE and CLEARING it is ILLEGAL (R25, R10, R103, R43). -/
def Obligations.DropTearsAPhoneDown : Prop :=
  (∀ (s : State) (q : PortIx) (tag k : Byte) (n : LineIx) (p : PartyIx), s.inReset = false → p.val = n.val →
    s.parties[p].state ∈ [PState.screen, .hold, .ready, .priv, .air] →
    (∀ j, s.ports[q].role = .studio j → s.parties[p].state = .air ∨ s.parties[p].state = .priv → s.parties[p].programme = j) →
    ∃ t, exec (.drop q tag (statePayload p s.parties[p].state k)) s = .next t ∧ OnlyParty p s t ∧ t.handed = s.handed ∧
      t.parties[p] = { s.parties[p] with state := .clearing, changes := s.parties[p].changes + 1, echoMark := none } ∧
      t.foldBacks[p] = { list := [], inService := none } ∧
      t.lines[n] = { s.lines[n] with loopSeen := false, answerCount := 0, dropCount := 0, clearingCount := 0 } ∧
      seize t p = false ∧
      Replied q tag .ok (stateReply p .clearing s.parties[p].programme (s.parties[p].changes + 1)) Event.party.flagOf s t) ∧
  ∀ (s : State) (q : PortIx) (tag k : Byte) (p : PartyIx), s.inReset = false →
    (16 ≤ p.val ∨ s.parties[p].state ∈ [PState.ringing, .idle, .clearing]) →
    ∃ t, exec (.drop q tag (statePayload p s.parties[p].state k)) s = .next t ∧ t = { s with ports := t.ports } ∧
      Replied q tag .illegal (stateReply p s.parties[p].state s.parties[p].programme s.parties[p].changes) 0 s t

/-- A state command that is refused changes nothing but its reply; one with a payload of another length or an index above 23 is
ILLEGAL with no payload; an undefined expected state is ILLEGAL. Beyond those the first check that fails gives the result, with
the state, programme and change count that stand: for READY, PRIVATE and TAKE a programme that is not 1 or 2 is ILLEGAL; a role
that may not use the command or its programme is NOT_ALLOWED; an expected state that is not the party's is STALE; a state from
which the command defines no move for the party's kind is ILLEGAL; and the studio restriction on HOLD, PRIVATE, TAKE and DROP is
NOT_ALLOWED; a command that passes them all is OK (R15 to R18, R19 to R25 for the moves). -/
def Obligations.RefusedStateCommandsChangeNothing : Prop :=
  (∀ e ∈ ([(.answer, false, fun _ _ => true, false, [PState.ringing], []),
      (.screen, false, fun r _ => decide (r = .engineering ∨ r = .screener), false, [.hold, .ready, .priv], []),
      (.hold, false, fun _ _ => true, true, [.screen, .ready, .priv, .air], [.priv, .air]),
      (.ready, true, fun r _ => decide (r = .engineering ∨ r = .screener), false, [.screen, .hold], []),
      (.privateTalk, true, fun r k => decide (r = .engineering ∨ (r = .studio 0 ∧ k = 1) ∨ (r = .studio 1 ∧ k = 2)), true,
        [.screen, .hold, .ready, .air], [.standby, .air]),
      (.take, true, fun r k => decide (r = .engineering ∨ (r = .studio 0 ∧ k = 1) ∨ (r = .studio 1 ∧ k = 2)), true,
        [.hold, .ready, .priv], [.standby, .priv]),
      (.drop, false, fun _ _ => true, true, [.screen, .hold, .ready, .priv, .air], [])] :
      List ((PortIx → Byte → List Byte → Instr) × Bool × (Role → Byte → Bool) × Bool × List PState × List PState)),
    ∀ (s : State) (q : PortIx) (tag k : Byte) (p : PartyIx) (x : PState), s.inReset = false →
      ∃ t, exec (e.1 q tag (statePayload p x k)) s = .next t ∧
        let result : Result :=
          if e.2.1 = true ∧ k ≠ 1 ∧ k ≠ 2 then .illegal
          else if e.2.2.1 s.ports[q].role k = false then .notAllowed
          else if x ≠ s.parties[p].state then .stale
          else if x ∉ (if p.val < 16 then e.2.2.2.2.1 else e.2.2.2.2.2) then .illegal
          else if e.2.2.2.1 = true ∧ (x = .air ∨ x = .priv) ∧
              (∃ j : Programme, s.ports[q].role = .studio j ∧ s.parties[p].programme ≠ j) then .notAllowed
          else .ok
        t.ports[q].slot.result = result ∧
        (result ≠ .ok → t = { s with ports := t.ports } ∧
          Replied q tag result (stateReply p s.parties[p].state s.parties[p].programme s.parties[p].changes) 0 s t)) ∧
  ∀ c ∈ ([.answer, .screen, .hold, .ready, .privateTalk, .take, .drop] : List (PortIx → Byte → List Byte → Instr)),
    ∀ (s : State) (q : PortIx) (tag : Byte), s.inReset = false →
      (∀ pl : List Byte, ∃ t r body, exec (c q tag pl) s = .next t ∧
        t.ports[q].slot = { tag := tag, result := r, body := body } ∧
        (r ≠ .ok → t = { s with ports := t.ports } ∧ Replied q tag r body 0 s t)) ∧
      (∀ pl : List Byte, (pl.length ≠ 4 ∨ ∃ h l x y, pl = [h, l, x, y] ∧ 24 ≤ h.toNat * 256 + l.toNat) →
        ∃ t, exec (c q tag pl) s = .next t ∧ t = { s with ports := t.ports } ∧ Replied q tag .illegal [] 0 s t) ∧
      ∀ (p : PartyIx) (x k : Byte), 10 ≤ x.toNat →
        ∃ t, exec (c q tag [0, byte p.val, x, k]) s = .next t ∧ t = { s with ports := t.ports } ∧
          Replied q tag .illegal (stateReply p s.parties[p].state s.parties[p].programme s.parties[p].changes) 0 s t

/-- At every command but RESET, each party either keeps its state and its change count, or changes its state and advances its
count by exactly one modulo 256; and a change of state has PARTY raised on all three ports (R3, R8). -/
def Obligations.ChangeCountFollowsTheState : Prop :=
  ∀ (c : Instr) (s t : State), c ≠ .reset → exec c s = .next t → ∀ p : PartyIx,
    (t.parties[p].state = s.parties[p].state ∧ t.parties[p].changes = s.parties[p].changes) ∨
    (t.parties[p].state ≠ s.parties[p].state ∧ t.parties[p].changes = s.parties[p].changes + 1 ∧
      ∀ q : PortIx, t.ports[q].flags.getLsbD Event.party.bit = true)

/-- SET PARTY from ENGINEERING, or from the studio of the party's programme selecting no other, stores each selected setting by
the table of R29 and no other, with the value of a setting that is not selected ignored, an undefined programme among them,
answers ADJUSTED where a selected value was adjusted, removes the mark where the programme changes, ends the service or runs
selection where the fold-back enable changes, raises PARTY where a stored value changed, and replies with the record; another
role is NOT_ALLOWED and stores nothing (R28, R29, R30, R31, R101). -/
def Obligations.SetPartyStoresTheSelectedSettings : Prop :=
  (∀ (s : State) (q : PortIx) (tag : Byte) (p : PartyIx) (sh sl sg rg gr fb tm pr : Byte) (j : Programme), s.inReset = false →
    (sl.getLsbD 5 = true → pr = programmeCode j) →
    (s.ports[q].role = .engineering ∨
      (s.ports[q].role = .studio s.parties[p].programme ∧ (sl.getLsbD 5 = true → j = s.parties[p].programme))) →
    ∃ t, exec (.setParty q tag [0, byte p.val, sh, sl, sg, rg, gr, fb, tm, pr]) s = .next t ∧
      OnlyParty p s t ∧ t.lines = s.lines ∧ t.handed = s.handed ∧
      t.parties[p].state = s.parties[p].state ∧ t.parties[p].changes = s.parties[p].changes ∧
      t.parties[p].sourceGain =
        (if sl.getLsbD 0 then if sg.toNat ≤ 192 then sg else 255 else s.parties[p].sourceGain) ∧
      t.parties[p].returnGain =
        (if sl.getLsbD 1 then if rg.toNat ≤ 192 then rg else 255 else s.parties[p].returnGain) ∧
      t.parties[p].group.val = (if sl.getLsbD 2 then min 8 gr.toNat else s.parties[p].group.val) ∧
      t.parties[p].foldBack = (if sl.getLsbD 3 then decide (fb ≠ 0) else s.parties[p].foldBack) ∧
      t.parties[p].toneMute = (if sl.getLsbD 4 then decide (tm ≠ 0) else s.parties[p].toneMute) ∧
      t.parties[p].programme =
        (if sl.getLsbD 5 then programmeKept p s.parties[p] j else s.parties[p].programme) ∧
      t.parties[p].echoMark =
        (if t.parties[p].programme = s.parties[p].programme then s.parties[p].echoMark else none) ∧
      t.foldBacks[p].list = s.foldBacks[p].list ∧
      (t.parties[p].foldBack = s.parties[p].foldBack → t.foldBacks[p] = s.foldBacks[p]) ∧
      (s.parties[p].foldBack = true → t.parties[p].foldBack = false → t.foldBacks[p].inService = none) ∧
      (s.parties[p].foldBack = false → t.parties[p].foldBack = true → s.foldBacks[p].inService = none →
        (∀ j, t.foldBacks[p].inService = some j → Selected (priorityOf s) s.foldBacks[p].list j) ∧
        (t.foldBacks[p].inService = none ↔ s.foldBacks[p].list = [] ∨ s.parties[p].state.connected = false)) ∧
      Replied q tag
        (if (sl.getLsbD 2 ∧ 8 < gr.toNat) ∨ (sl.getLsbD 3 ∧ 1 < fb.toNat) ∨ (sl.getLsbD 4 ∧ 1 < tm.toNat) ∨
            (sl.getLsbD 5 ∧ programmeKept p s.parties[p] j ≠ j) then .adjusted else .ok)
        (partyBody t p) (flagIf (decide (t.parties[p] ≠ s.parties[p])) .party) s t) ∧
  ∀ (s : State) (q : PortIx) (tag : Byte) (p : PartyIx) (sh sl sg rg gr fb tm pr : Byte) (j : Programme), s.inReset = false →
    (sl.getLsbD 5 = true → pr = programmeCode j) →
    (s.ports[q].role = .screener ∨ ∃ k, s.ports[q].role = .studio k ∧
      (s.parties[p].programme ≠ k ∨ (sl.getLsbD 5 = true ∧ j ≠ k))) →
    ∃ t, exec (.setParty q tag [0, byte p.val, sh, sl, sg, rg, gr, fb, tm, pr]) s = .next t ∧
      t = { s with ports := t.ports } ∧ Replied q tag .notAllowed (partyBody s p) 0 s t

/-- PT applies a supervision cause as R6 gives where the party's kind and state are among its from-states: the new state, a
count one higher, the settings kept, the mark removed at a teardown, PARTY raised with the event of the cause; and discards it
in any other state, with nothing changed and no event (R6, R7, R8). At a teardown the request list is emptied and the service
ended (R10, R103); at LINK_UP every active key that names the codec is entered in key-number order and the highest is served
where fold-back is on (R11, R102); the counts of a line restart as R43 gives. The arrival handed is taken either way (the
model's record of arrivals handed, log 8). -/
def Obligations.SupervisionCausesAreAppliedOrDiscarded : Prop :=
  ∀ e ∈ ([(.ring, true, [PState.idle], PState.ringing, Event.party.flagOf ||| Event.ring.flagOf),
      (.ringAbandon, true, [.ringing], .idle, Event.party.flagOf),
      (.loopDrop, true, [.screen, .hold, .ready, .priv, .air], .clearing, Event.party.flagOf ||| Event.hangup.flagOf),
      (.answerFailure, true, [.screen, .hold, .ready, .priv, .air], .clearing, Event.party.flagOf ||| Event.hangup.flagOf),
      (.clearingComplete, true, [.clearing], .idle, Event.party.flagOf),
      (.linkUp, false, [.offline], .standby, Event.party.flagOf ||| Event.link.flagOf),
      (.linkDown, false, [.standby, .priv, .air], .offline, Event.party.flagOf ||| Event.link.flagOf)] :
      List ((PartyIx → Instr) × Bool × List PState × PState × BitVec 11)),
    ∀ (s : State) (p : PartyIx), s.inReset = false →
      if decide (p.val < 16) = e.2.1 ∧ s.parties[p].state ∈ e.2.2.1 then
        ∃ t, exec (e.1 p) s = .next t ∧ OnlyParty p s t ∧ t.handed = s.handed.erase (e.1 p) ∧
          t.parties[p] = { s.parties[p] with
            state := e.2.2.2.1, changes := s.parties[p].changes + 1
            echoMark := if s.parties[p].state.connected then none else s.parties[p].echoMark } ∧
          (e.2.2.2.1 = .clearing ∨ e.2.2.2.1 = .offline → t.foldBacks[p] = { list := [], inService := none }) ∧
          (e.2.2.2.1 = .ringing ∨ e.2.2.2.1 = .idle → t.foldBacks[p] = s.foldBacks[p]) ∧
          (e.2.2.2.1 = .standby →
            t.foldBacks[p].list = (List.finRange 4).filter (fun j => s.keys[j].active && s.keys[j].dest[p]) ∧
            (∀ j, t.foldBacks[p].inService = some j → Selected (priorityOf s) t.foldBacks[p].list j) ∧
            (t.foldBacks[p].inService = none ↔ t.foldBacks[p].list = [] ∨ s.parties[p].foldBack = false)) ∧
          (∀ n : LineIx, n.val = p.val → t.lines[n] =
            if e.2.2.2.1 = .ringing then
              { s.lines[n] with ringCount := 0, answerCount := 0, dropCount := 0, clearingCount := 0 }
            else if e.2.2.2.1 = .clearing then
              { s.lines[n] with loopSeen := false, answerCount := 0, dropCount := 0, clearingCount := 0 }
            else if s.parties[p].state = .ringing then { s.lines[n] with ringCount := 0 }
            else { s.lines[n] with clearingCount := 0 }) ∧
          Raised e.2.2.2.2 s t
      else exec (e.1 p) s = .next { s with handed := s.handed.erase (e.1 p) }

/-! ## Line and link supervision (chapter 2) -/

/-- SUPERVISION_SAMPLE enters A7 and A6 of every TEL and CDC slot into the histories of RING and LOOP, of LINK and VALID, each
keeping its latest three; the filtered value is what two of three agree on, absent while there are fewer. The evaluation of a
line runs the counts of its state and hands the cause that falls due: RING in IDLE on a filtered ring; in RINGING the gap, to
9000; in a connected state the answer count, to 3000, until the loop is seen, then the drop count, to the drop time, a shorter
absence raising FLASH; in CLEARING the guard, to 750. A count at its end stands there while its cause is not taken (log 13). The
evaluation of a codec hands LINK_UP and LINK_DOWN by its filtered link (R36 to R44). -/
def Obligations.SamplesAndEvaluationsRunTheCounts : Prop :=
  (∀ (s : State) (aux : AuxIn), s.inReset = false → ∃ t, exec (.supervisionSample aux) s = .next t ∧
    t = { s with lines := t.lines, links := t.links } ∧
    (∀ n : LineIx, t.lines[n] = { s.lines[n] with
      ring := (aux.tel[n].getLsbD 7 :: s.lines[n].ring).take 3, loop := (aux.tel[n].getLsbD 6 :: s.lines[n].loop).take 3 }) ∧
    ∀ n : LinkIx, t.links[n].link = (aux.cdc[n].getLsbD 7 :: s.links[n].link).take 3 ∧
      t.links[n].valid = (aux.cdc[n].getLsbD 6 :: s.links[n].valid).take 3) ∧
  (∀ a b c : Bool, filtered [a, b, c] = decide (2 ≤ [a, b, c].count true)) ∧
  (∀ h : List Bool, h.length < 3 → filtered h = false) ∧
  (∀ (s : State) (p : PartyIx) (n : LineIx), s.inReset = false → p.val = n.val →
    ∃ t, exec (.partyEvaluation p) s = .next t ∧
      t = { s with lines := t.lines, ports := t.ports, handed := t.handed } ∧ SameBut n s.lines t.lines ∧
      match s.parties[p].state with
      | .idle => t.lines[n] = s.lines[n] ∧ Raised 0 s t ∧
          t.handed = s.handed ++ (if filtered s.lines[n].ring then [.ring p] else [])
      | .ringing => Raised 0 s t ∧
          if filtered s.lines[n].ring then t.lines[n] = { s.lines[n] with ringCount := 0 } ∧ t.handed = s.handed
          else t.lines[n] = { s.lines[n] with ringCount := min 9000 (s.lines[n].ringCount + 1) } ∧
            t.handed = s.handed ++ (if 9000 ≤ s.lines[n].ringCount + 1 then [.ringAbandon p] else [])
      | .clearing => Raised 0 s t ∧
          if filtered s.lines[n].ring ∨ filtered s.lines[n].loop then
            t.lines[n] = { s.lines[n] with clearingCount := 0 } ∧ t.handed = s.handed
          else t.lines[n] = { s.lines[n] with clearingCount := min 750 (s.lines[n].clearingCount + 1) } ∧
            t.handed = s.handed ++ (if 750 ≤ s.lines[n].clearingCount + 1 then [.clearingComplete p] else [])
      | .screen | .hold | .ready | .priv | .air =>
          if s.lines[n].loopSeen = false then
            Raised 0 s t ∧
            if filtered s.lines[n].loop then
              t.lines[n] = { s.lines[n] with loopSeen := true, answerCount := 0 } ∧ t.handed = s.handed
            else t.lines[n] = { s.lines[n] with answerCount := min 3000 (s.lines[n].answerCount + 1) } ∧
              t.handed = s.handed ++ (if 3000 ≤ s.lines[n].answerCount + 1 then [.answerFailure p] else [])
          else if filtered s.lines[n].loop then
            t.lines[n] = { s.lines[n] with dropCount := 0 } ∧ t.handed = s.handed ∧
              Raised (flagIf (decide (0 < s.lines[n].dropCount)) .flash) s t
          else t.lines[n] = { s.lines[n] with dropCount := min 900 (s.lines[n].dropCount + 1) } ∧ Raised 0 s t ∧
            t.handed = s.handed ++
              (if (match s.dropCode with | 0 => 225 | 1 => 450 | 2 => 900) ≤ s.lines[n].dropCount + 1 then [.loopDrop p] else [])
      | .offline | .standby => t.lines[n] = s.lines[n] ∧ Raised 0 s t ∧ t.handed = s.handed) ∧
  ∀ (s : State) (p : PartyIx) (n : LinkIx), s.inReset = false → p.val = n.val + 16 →
    exec (.partyEvaluation p) s = .next { s with handed := s.handed ++
      match s.parties[p].state with
      | .offline => if filtered s.links[n].link then [.linkUp p] else []
      | .standby | .priv | .air => if filtered s.links[n].link then [] else [.linkDown p]
      | .idle | .ringing | .screen | .hold | .ready | .clearing => [] }

/-! ## Buses, returns, ramps and transitions (chapters 3 and 4) -/

/-- SET SEND from ENGINEERING stores the selected fields of one send and no other, a gain of 193 to 255 as 255 and an exclusion
of 2 to 255 as set, adjusted, and replies with the send as it stands, to another role too, which is NOT_ALLOWED and stores
nothing. SET MONITOR from ENGINEERING stores a code of 0 to 30, and SET LINE TIMING a drop-time code of 0 to 2 as sent and a
higher one as 2, adjusted (the codes stand for 225, 450 and 900 periods), each replied; another role is NOT_ALLOWED without
payload. A wrong length or an operand out of range is ILLEGAL without payload (R55, R51, R74, R41). -/
def Obligations.SendsMonitorAndLineTimingAreStored : Prop :=
  (∀ (s : State) (q : PortIx) (tag sh sl g e : Byte) (n : StudioIx) (b : BusIx), s.inReset = false →
    ∃ t, exec (.setSend q tag [byte n.val, byte b.val, sh, sl, g, e]) s = .next t ∧
      if s.ports[q].role = .engineering then
        t = { s with mix := { s.mix with sends := t.mix.sends }, ports := t.ports } ∧
        t.mix.sends[n][b].gain = (if sl.getLsbD 0 then if g.toNat ≤ 192 then g else 255 else s.mix.sends[n][b].gain) ∧
        t.mix.sends[n][b].excluded = (if sl.getLsbD 1 then decide (e ≠ 0) else s.mix.sends[n][b].excluded) ∧
        (∀ (m : StudioIx) (a : BusIx), m ≠ n ∨ a ≠ b → t.mix.sends[m][a] = s.mix.sends[m][a]) ∧
        Replied q tag (if sl.getLsbD 1 ∧ 1 < e.toNat then .adjusted else .ok)
          [byte n.val, byte b.val, t.mix.sends[n][b].gain, if t.mix.sends[n][b].excluded then 1 else 0] 0 s t
      else t = { s with ports := t.ports } ∧
        Replied q tag .notAllowed
          [byte n.val, byte b.val, s.mix.sends[n][b].gain, if s.mix.sends[n][b].excluded then 1 else 0] 0 s t) ∧
  (∀ (s : State) (q : PortIx) (tag : Byte) (pl : List Byte), s.inReset = false →
    (pl.length ≠ 6 ∨ 16 ≤ (pl.getD 0 0).toNat ∨ 5 ≤ (pl.getD 1 0).toNat) →
    ∃ t, exec (.setSend q tag pl) s = .next t ∧ t = { s with ports := t.ports } ∧ Replied q tag .illegal [] 0 s t) ∧
  (∀ (s : State) (q : PortIx) (tag : Byte) (m : MonitorIx), s.inReset = false →
    ∃ t, exec (.setMonitor q tag [byte m.val]) s = .next t ∧
      if s.ports[q].role = .engineering then
        t = { s with mix := { s.mix with monitor := m }, ports := t.ports } ∧ Replied q tag .ok [byte m.val] 0 s t
      else t = { s with ports := t.ports } ∧ Replied q tag .notAllowed [] 0 s t) ∧
  (∀ (s : State) (q : PortIx) (tag : Byte) (pl : List Byte), s.inReset = false →
    (pl.length ≠ 1 ∨ 31 ≤ (pl.getD 0 0).toNat) →
    ∃ t, exec (.setMonitor q tag pl) s = .next t ∧ t = { s with ports := t.ports } ∧ Replied q tag .illegal [] 0 s t) ∧
  (∀ (s : State) (q : PortIx) (tag c : Byte), s.inReset = false →
    ∃ t, exec (.setLineTiming q tag [c]) s = .next t ∧
      if s.ports[q].role = .engineering then
        t = { s with dropCode := t.dropCode, ports := t.ports } ∧ t.dropCode.val = min 2 c.toNat ∧
          Replied q tag (if 2 < c.toNat then .adjusted else .ok) [if 2 < c.toNat then 2 else c] 0 s t
      else t = { s with ports := t.ports } ∧ Replied q tag .notAllowed [] 0 s t) ∧
  (∀ (s : State) (q : PortIx) (tag : Byte) (pl : List Byte), s.inReset = false → pl.length ≠ 1 →
    ∃ t, exec (.setLineTiming q tag pl) s = .next t ∧ t = { s with ports := t.ports } ∧ Replied q tag .illegal [] 0 s t) ∧
  dropTime 0 = 225 ∧ dropTime 1 = 450 ∧ dropTime 2 = 900

/-- At ME_PERIOD_START every coefficient ramps from the value held to the value taken: each party's source term on the one bus
its state and programme contribute to, and 0 on the others; its return gain and the tone gain of its route; each send. Each
party's new feed is that of its state and programme, with itself and its group mates as its subtraction set and the excluded
sends of the bus; the old feed and the old monitor selection are those held and the new selection that stored. A party's source
is heard where its gate is open, a codec's while its filtered VALID is present, and the party is connected or is being ramped
out of a bus; its players are those of the route of its state, none with its tone mute on (R56 to R60, R68, R75, R77, R78, R81,
R82, R90). The coefficient of a gain code v is 0 from 193 on and 16384 times 10 to the (12 - v)/40, a half rounded up, up to
192, here with both bounds of the rounding raised to the power 40 (R51). The period begins at frame 0 (log 16); a party just
torn down is one with a coefficient still held (log 22). -/
def Obligations.PeriodStartTakesTheControlState : Prop :=
  (∀ v : Byte, (193 ≤ v.toNat → coef v = 0) ∧ (v = 12 → coef v = 16384) ∧
    (v.toNat ≤ 192 → (2 * coef v - 1) ^ 40 * 10 ^ v.toNat ≤ 32768 ^ 40 * 10 ^ 12 ∧
      32768 ^ 40 * 10 ^ 12 < (2 * coef v + 1) ^ 40 * 10 ^ v.toNat)) ∧
  ∀ s : State, s.inReset = false → ∃ t, exec .mePeriodStart s = .next t ∧
    t = { s with mix := t.mix, partyMix := t.partyMix } ∧ t.mix.sends = s.mix.sends ∧ t.mix.monitor = s.mix.monitor ∧
    t.mix.frame = 0 ∧ t.mix.period = s.mix.period ∧ t.mix.monitorOld = s.mix.monitorNew ∧ t.mix.monitorNew = s.mix.monitor ∧
    (∀ (n : StudioIx) (b : BusIx), t.mix.sendCoef[n][b] =
      { old := s.mix.sendCoef[n][b].new, new := coef s.mix.sends[n][b].gain }) ∧
    ∀ p : PartyIx,
      (∀ b : BusIx, t.partyMix[p].source[b] =
        { old := s.partyMix[p].source[b].new
          new :=
            if (match s.parties[p].state with
              | .screen => decide (b.val = 2)
              | .priv => decide (b.val = 3 + s.parties[p].programme.val)
              | .air => decide (b.val = s.parties[p].programme.val)
              | .hold | .ready | .standby | .idle | .ringing | .clearing | .offline => false)
            then coef s.parties[p].sourceGain else 0 }) ∧
      t.partyMix[p].ret = { old := s.partyMix[p].ret.new, new := coef s.parties[p].returnGain } ∧
      t.partyMix[p].tone =
        { old := s.partyMix[p].tone.new
          new := match s.parties[p].state with
            | .screen => coef s.routes[0].gain
            | .hold => coef s.routes[1].gain
            | .ready => coef s.routes[2].gain
            | .standby => coef s.routes[3].gain
            | .priv => coef s.routes[4].gain
            | .air => coef s.routes[5].gain
            | .idle | .ringing | .clearing | .offline => 0 } ∧
      (t.partyMix[p].heard = true ↔ (∀ n : LinkIx, p.val = n.val + 16 → filtered s.links[n].valid = true) ∧
        (s.parties[p].state ∉ [PState.idle, .ringing, .clearing, .offline] ∨ ∃ b : BusIx, s.partyMix[p].source[b].new ≠ 0)) ∧
      (∀ j : PlayerIx, t.partyMix[p].tonePlayers[j] = (!s.parties[p].toneMute &&
        match s.parties[p].state with
        | .screen => s.routes[0].players[j]
        | .hold => s.routes[1].players[j]
        | .ready => s.routes[2].players[j]
        | .standby => s.routes[3].players[j]
        | .priv => s.routes[4].players[j]
        | .air => s.routes[5].players[j]
        | .idle | .ringing | .clearing | .offline => false)) ∧
      t.partyMix[p].feedOld = s.partyMix[p].feedNew ∧
      (match s.parties[p].state with
        | .idle | .ringing | .clearing | .offline => t.partyMix[p].feedNew = .silence
        | .screen => ∃ m e, t.partyMix[p].feedNew = .bus 2 m e
        | .priv => ∃ b m e, t.partyMix[p].feedNew = .bus b m e ∧ b.val = 3 + s.parties[p].programme.val
        | .air | .standby => ∃ b m e, t.partyMix[p].feedNew = .bus b m e ∧ b.val = s.parties[p].programme.val
        | .hold | .ready =>
          if s.parties[p].echoMark = none ∧ s.delays[s.parties[p].programme].holdFeed = .air then
            t.partyMix[p].feedNew = .air s.parties[p].programme
          else ∃ b m e, t.partyMix[p].feedNew = .bus b m e ∧ b.val = s.parties[p].programme.val) ∧
      ∀ b m e, t.partyMix[p].feedNew = .bus b m e →
        (∀ j : PartyIx, m[j] = true ↔ j = p ∨ (s.parties[p].group ≠ 0 ∧ s.parties[j].group = s.parties[p].group)) ∧
        ∀ n : StudioIx, e[n] = s.mix.sends[n][b].excluded

/-- The key of a party across a period start. In a feed transition to a feed that is not silence every fold-back value stands as
it ended the period before. Otherwise: no key and none in service leaves the duck at unity; a key entering ramps its talkback
from 0 and the duck to its code; a key leaving ramps to 0 and the duck to unity; the same key with the same source ramps to its
codes; and another key, or another source of the key, does both at once (R86 to R89). -/
def Obligations.KeyChangesRampOrAreHeld : Prop :=
  ∀ (s : State) (p : PartyIx), s.inReset = false → ∃ t, exec .mePeriodStart s = .next t ∧
    if t.partyMix[p].feedOld ≠ t.partyMix[p].feedNew ∧ t.partyMix[p].feedNew ≠ .silence then
      t.partyMix[p].leaving = none ∧
      t.partyMix[p].duck = { old := s.partyMix[p].duck.new, new := s.partyMix[p].duck.new } ∧
      t.partyMix[p].keyUse = s.partyMix[p].keyUse.map fun u =>
        { u with talk := { old := u.talk.new, new := u.talk.new } }
    else
      t.partyMix[p].duck.old = s.partyMix[p].duck.new ∧
      match s.partyMix[p].keyUse, s.foldBacks[p].inService with
      | none, none => t.partyMix[p].duck.new = 16384 ∧ t.partyMix[p].leaving = none ∧ t.partyMix[p].keyUse = none
      | none, some k => t.partyMix[p].duck.new = coef s.keys[k].duck ∧ t.partyMix[p].leaving = none ∧
          t.partyMix[p].keyUse =
            some { key := k, source := s.keys[k].source, talk := { old := 0, new := coef s.keys[k].talk } }
      | some u, none => t.partyMix[p].duck.new = 16384 ∧ t.partyMix[p].keyUse = none ∧
          t.partyMix[p].leaving = some { source := u.source, talk := { old := u.talk.new, new := 0 } }
      | some u, some k => t.partyMix[p].duck.new = coef s.keys[k].duck ∧
          if u.key = k ∧ u.source = s.keys[k].source then
            t.partyMix[p].leaving = none ∧
            t.partyMix[p].keyUse =
              some { key := k, source := u.source, talk := { old := u.talk.new, new := coef s.keys[k].talk } }
          else t.partyMix[p].leaving = some { source := u.source, talk := { old := u.talk.new, new := 0 } } ∧
            t.partyMix[p].keyUse =
              some { key := k, source := s.keys[k].source, talk := { old := 0, new := coef s.keys[k].talk } }

/-- A ramped coefficient starts from the value held, moves between the two, never past the line between them, and is exactly the
new value at frame 31; one that does not differ stands (R79). -/
def Obligations.RampsLandInTheirPeriod : Prop :=
  ∀ (r : Ramp) (i : FrameIx),
    rampAt r 31 = r.new ∧ (r.old = r.new → rampAt r i = r.old) ∧
    (min r.old r.new : Nat) ≤ rampAt r i ∧ rampAt r i ≤ (max r.old r.new : Nat) ∧
    (r.old ≤ r.new → 32 * (rampAt r i - r.old) ≤ (r.new - r.old) * (i.val + 1) ∧
      ((r.new : Int) - r.old) * (i.val + 1) < 32 * (rampAt r i - r.old + 1)) ∧
    (r.new ≤ r.old → ((r.new : Int) - r.old) * (i.val + 1) ≤ 32 * (rampAt r i - r.old) ∧
      32 * (rampAt r i - r.old - 1) < ((r.new : Int) - r.old) * (i.val + 1))

/-- A frame forms each bus as the exact sum of the sixteen ramped sends and of the party terms, rounded once and clamped once,
from the input samples and the gated party sources. With coefficients in range every product is below 2^39 in magnitude and
every bus accumulator below 2^44, so that the stated widths of 40 and 48 bits hold them (R50, R52, R57, R61 to R63). In a frame
but the last nothing of the period's context moves but the frame count; at frame 31 every ramp, of sends, sources, returns,
tones, ducks and talkback, has landed on its new value, each feed and the monitor selection held are the new ones, and no key is
left ramping out (R75, R79, R83, R86; that the computation of frame 31 ends the period is log 16, the exact arithmetic log 21;
the frame takes the memory size mode stored and has made no access on the delay memory port, log 31). -/
def Obligations.FrameFormsTheBuses : Prop :=
  (∀ (s : State) (x : FrameIn), s.inReset = false → ∃ t, exec (.frameComputation x) s = .next t ∧
    t = { s with
      mix := t.mix, partyMix := t.partyMix, formed := t.formed, formedBefore := t.formedBefore, sent := t.sent
      points := t.points, players := t.players, ports := t.ports, memInUse := s.memSize, memPort := Vector.replicate 2 [] } ∧
    t.mix.sends = s.mix.sends ∧ t.mix.monitor = s.mix.monitor ∧ t.formed.index = s.mix.frame ∧
    (s.mix.frame ≠ 31 → t.mix = { s.mix with frame := s.mix.frame + 1 } ∧ t.partyMix = s.partyMix) ∧
    (s.mix.frame = 31 →
      let landed : Ramp → Ramp := fun r => { old := r.new, new := r.new }
      t.mix.frame = 0 ∧ t.mix.period = s.mix.period + 1 ∧
      t.mix.monitorOld = s.mix.monitorNew ∧ t.mix.monitorNew = s.mix.monitorNew ∧
      (∀ (n : StudioIx) (b : BusIx), t.mix.sendCoef[n][b] = landed s.mix.sendCoef[n][b]) ∧
      ∀ p : PartyIx,
        (∀ b : BusIx, t.partyMix[p].source[b] = landed s.partyMix[p].source[b]) ∧
        t.partyMix[p].ret = landed s.partyMix[p].ret ∧ t.partyMix[p].tone = landed s.partyMix[p].tone ∧
        t.partyMix[p].duck = landed s.partyMix[p].duck ∧ t.partyMix[p].leaving = none ∧
        t.partyMix[p].keyUse = s.partyMix[p].keyUse.map (fun u => { u with talk := landed u.talk }) ∧
        t.partyMix[p].feedOld = s.partyMix[p].feedNew ∧ t.partyMix[p].feedNew = s.partyMix[p].feedNew ∧
        t.partyMix[p].heard = s.partyMix[p].heard ∧ t.partyMix[p].tonePlayers = s.partyMix[p].tonePlayers) ∧
    ∀ b : BusIx,
      let a : Int :=
        (∑ n : StudioIx, rampAt s.mix.sendCoef[n][b] s.mix.frame * (x.stu[n].extractLsb' 8 24).toInt) +
        ∑ p : PartyIx, rampAt s.partyMix[p].source[b] s.mix.frame *
          (if s.partyMix[p].heard then
            if h : p.val < 16 then (x.tel[p.val].extractLsb' 8 24).toInt else (x.cdc[p.val - 16].extractLsb' 8 24).toInt
          else 0)
      t.formed.buses[b].toInt = max (-8388608) (min 8388607 ((a + 8192) / 16384))) ∧
  ∀ (s : State) (x : FrameIn) (b : BusIx), MixOk s →
    (∀ n : StudioIx, |sendTerm s x b n| < 2 ^ 39) ∧ (∀ p : PartyIx, |partyTerm s x b p| < 2 ^ 39) ∧ |busSum s x b| < 2 ^ 44

/-- The exact subtraction: outside a feed transition the mix value of a bus-derived feed is the rounded, clamped sum of the terms
on its bus that the party may hear, the sends not excluded and the parties outside its subtraction set; in a transition it is the
blend of two such values; and a saturation of either is reported as a clip at the party's return point (R64, R66, R70). The mix
value of the AIR hold feed of a programme is the AIRk sample that the same frame forms, as it stands, and that of silence is 0
(R65, R128; that the frame computation gives AIRk is log 15). -/
def Obligations.MixMinusHoldsOnlyTheWantedTerms : Prop :=
  (∀ (s : State) (x : FrameIn) (b : BusIx) (minus : Mask 24) (excluded : Mask 16),
    mixValue s x (.bus b minus excluded) =
      sat (rnd ((∑ n : StudioIx, if excluded[n] then 0 else sendTerm s x b n) +
        ∑ p : PartyIx, if minus[p] then 0 else partyTerm s x b p))) ∧
  (∀ (s : State) (x : FrameIn), mixValue s x .silence = 0 ∧ (s.inReset = false → ∃ t, exec (.frameComputation x) s = .next t ∧
    ∀ k : Programme, mixValue s x (.air k) = t.formed.air[k].toInt)) ∧
  (∀ (s : State) (x : FrameIn) (p : PartyIx), partyMixValue s x p =
    if s.partyMix[p].feedOld = s.partyMix[p].feedNew then mixValue s x s.partyMix[p].feedNew
    else (mixValue s x s.partyMix[p].feedOld * (16384 - 512 * (s.mix.frame.val + 1)) +
      mixValue s x s.partyMix[p].feedNew * (512 * (s.mix.frame.val + 1)) + 8192) / 16384) ∧
  ∀ (s : State) (x : FrameIn) (n : PointIx) (p : PartyIx), s.inReset = false → n.val = 24 + p.val →
    (mixClips s x s.partyMix[p].feedOld = true ∨ mixClips s x s.partyMix[p].feedNew = true) →
    ∃ t, exec (.frameComputation x) s = .next t ∧ t.points[n].clip = true

/-- No party hears itself or its group: of two frames whose studio slots agree, and whose party samples differ only at parties
that the feeds of p, old and new, keep out, p's return is the same, whatever its keys, tones and gains and whatever ramps (R60,
R64). -/
def Obligations.NoPartyHearsWhatItsFeedKeepsOut : Prop :=
  ∀ (s : State) (x y : FrameIn) (p : PartyIx), s.inReset = false → x.stu = y.stu →
    (∀ j : PartyIx, partyInput x j ≠ partyInput y j → s.partyMix[p].feedOld.hides j ∧ s.partyMix[p].feedNew.hides j) →
    ∃ tx ty, exec (.frameComputation x) s = .next tx ∧ exec (.frameComputation y) s = .next ty ∧
      tx.formed.returns[p] = ty.formed.returns[p]

/-- The stages of a return: the mix value unchanged without a key, or ducked with the talkback of the keys that take part; each
player's tone rounded on its own; and the return gain; each stage clamped at its end (R67 to R69). A party whose feed is silence
with no key and no tones has the return 0 (R65). -/
def Obligations.ReturnIsFormedInStages : Prop :=
  ∀ (s : State) (x : FrameIn) (p : PartyIx), s.inReset = false → ∃ t, exec (.frameComputation x) s = .next t ∧
    (let i := s.mix.frame
     let h := s.partyMix[p]
     let m := partyMixValue s x p
     let talk : Int :=
      (match h.leaving with | some u => (x.stu[u.source].extractLsb' 8 24).toInt * rampAt u.talk i | none => 0) +
      (match h.keyUse with | some u => (x.stu[u.source].extractLsb' 8 24).toInt * rampAt u.talk i | none => 0)
     let y := if h.keyUse = none ∧ h.leaving = none then m else sat (rnd (m * rampAt h.duck i + talk))
     let z := sat (y + ∑ j : PlayerIx, if h.tonePlayers[j] then rnd (playerOut s.players[j] i * rampAt h.tone i) else 0)
     t.formed.returns[p].toInt = sat (rnd (z * rampAt h.ret i))) ∧
    (s.partyMix[p].feedOld = .silence → s.partyMix[p].feedNew = .silence → s.partyMix[p].keyUse = none →
      s.partyMix[p].leaving = none → (∀ j : PlayerIx, s.partyMix[p].tonePlayers[j] = false) → t.formed.returns[p] = 0)

/-- ME takes the monitor selection at each period start; MONITOR is the selected signal where the selection is the one held, and
otherwise crossfades across the period from the old signal to the new (R75). At frame 31 the new selection becomes the one held
(that the frame computation of frame 31 ends the period is the model's reading, log 16). -/
def Obligations.MonitorCrossfadesToItsSelection : Prop :=
  (∀ s : State, s.inReset = false → ∃ t, exec .mePeriodStart s = .next t ∧ t.mix.monitorNew = s.mix.monitor ∧
    t.mix.monitorOld = s.mix.monitorNew) ∧
  ∀ (s : State) (x : FrameIn), s.inReset = false → ∃ t, exec (.frameComputation x) s = .next t ∧
    let signal : MonitorIx → Int := fun c =>
      if h : c.val < 24 then t.formed.returns[c.val].toInt
      else if h : c.val < 29 then t.formed.buses[c.val - 24].toInt
      else (t.formed.air[c.val - 29]'(by omega)).toInt
    (s.mix.monitorOld = s.mix.monitorNew → t.formed.monitor.toInt = signal s.mix.monitorNew) ∧
    (s.mix.monitorOld ≠ s.mix.monitorNew → t.formed.monitor.toInt =
      (signal s.mix.monitorOld * (16384 - 512 * (s.mix.frame.val + 1)) +
        signal s.mix.monitorNew * (512 * (s.mix.frame.val + 1)) + 8192) / 16384) ∧
    (s.mix.frame = 31 → t.mix.monitorOld = s.mix.monitorNew ∧ t.mix.monitorNew = s.mix.monitorNew)

/-- The slots sent in a frame carry the values formed two frames before: the returns on TEL and CDC with SEIZE and ONAIR of the
states as they stand, the buses, air outputs and MONITOR on STU slots 0 to 7 and 0 on the rest, each multiplied by the
coefficient of the realign dip, which is 16384 outside a dip (R46, R71, R72, R192, R193, R195; the pipeline of two frames is log
17). On the lines of a port FSYNC is high in the first bit period of slot 0 alone, BCLK rises once in each bit period, and DOUT
carries the slots in order, each most significant bit first (R192; the place of the edges in a bit period is log 24). -/
def Obligations.OutputSlotsCarryTheFrameBeforeLast : Prop :=
  ∀ (s : State) (x : FrameIn), s.inReset = false → ∃ t, exec (.frameComputation x) s = .next t ∧ t.formedBefore = s.formed ∧
    let c : Int :=
      if s.clock.lock = .relock ∧ s.clock.settle = 1 then 16384 - 512 * (s.mix.frame.val + 1)
      else if s.clock.firstLocked = true ∨ s.clock.fadeInOwed = true then 512 * (s.mix.frame.val + 1)
      else 16384
    let dipped : Sample → Int := fun v => (v.toInt * c + 8192) / 16384
    (∀ n : LineIx, ((t.sent.tel[n]).extractLsb' 8 24).toInt = dipped s.formedBefore.returns[n.val] ∧
      (t.sent.tel[n]).getLsbD 7 = s.parties[n.val].state.phoneConnected ∧
      (t.sent.tel[n]).getLsbD 6 = decide (s.parties[n.val].state = .air) ∧ (t.sent.tel[n]).extractLsb' 0 6 = 0) ∧
    (∀ n : LinkIx, ((t.sent.cdc[n]).extractLsb' 8 24).toInt = dipped s.formedBefore.returns[n.val + 16] ∧
      (t.sent.cdc[n]).getLsbD 7 = false ∧ (t.sent.cdc[n]).getLsbD 6 = decide (s.parties[n.val + 16].state = .air) ∧
      (t.sent.cdc[n]).extractLsb' 0 6 = 0) ∧
    (∀ n : StudioIx, (t.sent.stu[n]).extractLsb' 0 8 = 0 ∧ ((t.sent.stu[n]).extractLsb' 8 24).toInt =
      match n.val with
      | 0 => dipped s.formedBefore.buses[0] | 1 => dipped s.formedBefore.buses[1]
      | 2 => dipped s.formedBefore.air[0] | 3 => dipped s.formedBefore.air[1]
      | 4 => dipped s.formedBefore.buses[2] | 5 => dipped s.formedBefore.buses[3] | 6 => dipped s.formedBefore.buses[4]
      | 7 => dipped s.formedBefore.monitor
      | _ => 0) ∧
    (c = 16384 → ∀ v, dipped v = v.toInt) ∧
    (∀ (n : StudioIx) (b : Fin 32) (risen : Bool),
      audioLines t .tel (32 * n.val + b.val) risen =
        { fsync := decide (n = 0 ∧ b = 0), bclk := risen, dout := t.sent.tel[n].getLsbD (31 - b.val) } ∧
      audioLines t .stu (32 * n.val + b.val) risen =
        { fsync := decide (n = 0 ∧ b = 0), bclk := risen, dout := t.sent.stu[n].getLsbD (31 - b.val) }) ∧
    ∀ (n : LinkIx) (b : Fin 32) (risen : Bool), audioLines t .cdc (32 * n.val + b.val) risen =
      { fsync := decide (n = 0 ∧ b = 0), bclk := risen, dout := t.sent.cdc[n].getLsbD (31 - b.val) }

/-- A frame adds the magnitude of each point's sample to its accumulator while a measurement runs and not otherwise: the gated
sources of the parties, their returns, the studio inputs, the buses and the air outputs, in this order. It sets the sticky flag
of each point that gets a clip report, never clears one, raises CLIP where a flag goes from clear to set and nothing else. A bus
point gets a report where its bus leaves the sample range before its clamp, a return point where a mix value of its feeds, the
fold-back stage, the tone stage or the gain stage does, and no other point gets one (R64 to R70, R73, R152, R154, R158). -/
def Obligations.FrameMetersAndReportsClips : Prop :=
  ∀ (s : State) (x : FrameIn), s.inReset = false → ∃ t, exec (.frameComputation x) s = .next t ∧
    Raised (flagIf (decide (∃ n : PointIx, t.points[n].clip = true ∧ s.points[n].clip = false)) .clip) s t ∧
    let leaves : Int → Prop := fun v => v < -8388608 ∨ 8388607 < v
    let round : Int → Int := fun v => (v + 8192) / 16384
    let i := s.mix.frame
    let input : StudioIx → Int := fun n => (x.stu[n].extractLsb' 8 24).toInt
    let source : PartyIx → Int := fun p =>
      if s.partyMix[p].heard then
        if h : p.val < 16 then (x.tel[p.val].extractLsb' 8 24).toInt else (x.cdc[p.val - 16].extractLsb' 8 24).toInt
      else 0
    let send : BusIx → StudioIx → Int := fun b n => rampAt s.mix.sendCoef[n][b] i * input n
    let term : BusIx → PartyIx → Int := fun b p => rampAt s.partyMix[p].source[b] i * source p
    ∀ n : PointIx, t.points[n].code = s.points[n].code ∧ t.points[n].valid = s.points[n].valid ∧
      (∃ v : Int,
        (∀ p : PartyIx, n.val = p.val → v = source p) ∧
        (∀ p : PartyIx, n.val = 24 + p.val → v = t.formed.returns[p].toInt) ∧
        (∀ m : StudioIx, n.val = 48 + m.val → v = input m) ∧
        (∀ b : BusIx, n.val = 64 + b.val → v = t.formed.buses[b].toInt) ∧
        (∀ k : Programme, n.val = 69 + k.val → v = t.formed.air[k].toInt) ∧
        t.points[n].acc = s.points[n].acc + (if s.meter.phase = .measuring then min 8388607 v.natAbs else 0)) ∧
      (s.points[n].clip = true → t.points[n].clip = true) ∧
      (∀ b : BusIx, n.val = 64 + b.val → s.points[n].clip = false →
        (t.points[n].clip = true ↔ leaves (round ((∑ m : StudioIx, send b m) + ∑ p : PartyIx, term b p)))) ∧
      (∀ p : PartyIx, n.val = 24 + p.val → s.points[n].clip = false →
        let h := s.partyMix[p]
        let mixed : Prop := ∃ (b : BusIx) (minus : Mask 24) (excluded : Mask 16),
          (h.feedOld = .bus b minus excluded ∨ h.feedNew = .bus b minus excluded) ∧
          leaves (round ((∑ m : StudioIx, if excluded[m] then 0 else send b m) + ∑ j : PartyIx, if minus[j] then 0 else term b j))
        let talk : Int :=
          (match h.leaving with | some u => input u.source * rampAt u.talk i | none => 0) +
          (match h.keyUse with | some u => input u.source * rampAt u.talk i | none => 0)
        let y : Int :=
          if h.keyUse = none ∧ h.leaving = none then partyMixValue s x p
          else round (partyMixValue s x p * rampAt h.duck i + talk)
        let z : Int := max (-8388608) (min 8388607 y) +
          ∑ j : PlayerIx, if h.tonePlayers[j] then round (playerOut s.players[j] i * rampAt h.tone i) else 0
        (t.points[n].clip = true ↔
          mixed ∨ leaves y ∨ leaves z ∨ leaves (round (max (-8388608) (min 8388607 z) * rampAt h.ret i)))) ∧
      (n.val < 24 ∨ (48 ≤ n.val ∧ n.val < 64) ∨ 69 ≤ n.val → t.points[n].clip = s.points[n].clip)

/-! ## Talkback and fold-back (chapter 5) -/

/-- KEY ON and OFF set and clear the latch of the sending port alone, OFF-ALL all three for ENGINEERING; an action that finds
its latches so is ALREADY and changes nothing; OFF-ALL from another role is NOT_ALLOWED. The active flag is re-formed from the
latches and the trigger output; where the key goes active or inactive its request or release reaches the context of each party
of its destination set at this arrival, with the effect of REQUEST or RELEASE there, and no other context is touched. The reply
carries the key and its latch byte, latches in bits 0 to 2, trigger output in bit 3, active flag in bit 4, and, by the model's
choice, 0 in the other bits (log 33). A delivered change of a key's trigger cell output is recorded and re-forms the flag in the
same way; a delivery of a cell that the key does not select changes nothing (log 12). The arrival handed is taken either way
(log 8) (R93, R94, R95, R98, R99, R105, R200). -/
def Obligations.KeysAreReformedAndAsk : Prop :=
  (∀ (s : State) (q : PortIx) (tag : Byte) (k : KeyIx) (a : Fin 3), s.inReset = false →
    ∃ t, exec (.key q tag [byte k.val, byte a.val]) s = .next t ∧
      let latches : Vector Bool 3 :=
        if a = 0 then s.keys[k].latches.set q false else if a = 1 then s.keys[k].latches.set q true
        else Vector.replicate 3 false
      let now : Bool := latches[0] || latches[1] || latches[2] || (s.keys[k].trigger.isSome && s.keys[k].triggerOut)
      if a = 2 ∧ s.ports[q].role ≠ .engineering then
        t = { s with ports := t.ports } ∧ Replied q tag .notAllowed [byte k.val, latchByte s.keys[k]] 0 s t
      else if latches = s.keys[k].latches then
        t = { s with ports := t.ports } ∧ Replied q tag .already [byte k.val, latchByte s.keys[k]] 0 s t
      else
        t = { s with keys := t.keys, foldBacks := t.foldBacks, ports := t.ports } ∧ SameBut k s.keys t.keys ∧
        t.keys[k] = { s.keys[k] with latches := latches, active := now } ∧
        (∀ p : PartyIx, ∃ u : State,
          (if now = true ∧ s.keys[k].active = false ∧ s.keys[k].dest[p] = true then exec (.request k p) { s with keys := t.keys } = .next u
            else if now = false ∧ s.keys[k].active = true ∧ s.keys[k].dest[p] = true then
              exec (.release k p) { s with keys := t.keys } = .next u
            else u = s) ∧ t.foldBacks[p] = u.foldBacks[p]) ∧
        Replied q tag .ok [byte k.val, latchByte t.keys[k]] 0 s t) ∧
  (∀ x : Key, latchByte x = BitVec.ofNat 8
    ((if x.latches[0] then 1 else 0) + (if x.latches[1] then 2 else 0) + (if x.latches[2] then 4 else 0) +
      (if x.triggerOut then 8 else 0) + (if x.active then 16 else 0))) ∧
  ∀ (s : State) (k : KeyIx) (c : CellIx) (out : Bool), s.inReset = false →
    ∃ t, exec (.keyTrigger k c out) s = .next t ∧
      if s.keys[k].trigger = some c then
        let now : Bool := s.keys[k].latches[0] || s.keys[k].latches[1] || s.keys[k].latches[2] || out
        t = { s with keys := t.keys, foldBacks := t.foldBacks, handed := s.handed.erase (.keyTrigger k c out) } ∧
        SameBut k s.keys t.keys ∧
        t.keys[k] = { s.keys[k] with triggerOut := out, active := now } ∧
        ∀ p : PartyIx, ∃ u : State,
          (if now = true ∧ s.keys[k].active = false ∧ s.keys[k].dest[p] = true then exec (.request k p) { s with keys := t.keys } = .next u
            else if now = false ∧ s.keys[k].active = true ∧ s.keys[k].dest[p] = true then
              exec (.release k p) { s with keys := t.keys } = .next u
            else u = s) ∧ t.foldBacks[p] = u.foldBacks[p]
      else t = { s with handed := s.handed.erase (.keyTrigger k c out) }

/-- SET KEY from ENGINEERING stores each selected setting and no other, a priority above 3 as 3, adjusted, and gains above 192
as 255; a new trigger cell gives its present output and the active flag is re-formed. At the same arrival a release reaches each
party that leaves the reach and a request each party that enters it, and after it, where the priority changes, a reconsideration
of the key, each with the effect of its own row there; and the entry in the reply is taken after them. Another role is
NOT_ALLOWED and stores nothing (R104, R105; log 23 for the trigger output of the same cell stored again). -/
def Obligations.SetKeyStoresAndActsAtItsParties : Prop :=
  ∀ (s : State) (q : PortIx) (tag : Byte) (k : KeyIx) (sh sl src pri duck talk d2 d1 d0 trig : Byte), s.inReset = false →
    (sl.getLsbD 0 = true → src.toNat < 16) → (sl.getLsbD 5 = true → trig.toNat ≤ 8) →
    ∃ t, exec (.setKey q tag [byte k.val, sh, sl, src, pri, duck, talk, d2, d1, d0, trig]) s = .next t ∧
      if s.ports[q].role = .engineering then
        t = { s with keys := t.keys, foldBacks := t.foldBacks, ports := t.ports } ∧ SameBut k s.keys t.keys ∧
        t.keys[k].latches = s.keys[k].latches ∧
        t.keys[k].source.val = (if sl.getLsbD 0 then src.toNat else s.keys[k].source.val) ∧
        t.keys[k].priority.val = (if sl.getLsbD 1 then min 3 pri.toNat else s.keys[k].priority.val) ∧
        t.keys[k].duck = (if sl.getLsbD 2 then if duck.toNat ≤ 192 then duck else 255 else s.keys[k].duck) ∧
        t.keys[k].talk = (if sl.getLsbD 3 then if talk.toNat ≤ 192 then talk else 255 else s.keys[k].talk) ∧
        (∀ p : PartyIx, t.keys[k].dest[p] =
          if sl.getLsbD 4 then (d2 ++ d1 ++ d0 : BitVec 24).getLsbD p.val else s.keys[k].dest[p]) ∧
        (∀ c : CellIx, t.keys[k].trigger = some c ↔
          if sl.getLsbD 5 then trig.toNat = c.val else s.keys[k].trigger = some c) ∧
        t.keys[k].triggerOut =
          (if t.keys[k].trigger = s.keys[k].trigger then s.keys[k].triggerOut
            else match t.keys[k].trigger with | some c => s.cells[c].output | none => false) ∧
        t.keys[k].active = (t.keys[k].latches[0] || t.keys[k].latches[1] || t.keys[k].latches[2] ||
          (t.keys[k].trigger.isSome && t.keys[k].triggerOut)) ∧
        (∀ p : PartyIx, ∃ u v : State,
          (if (s.keys[k].active && s.keys[k].dest[p]) = true ∧ (t.keys[k].active && t.keys[k].dest[p]) = false then
              exec (.release k p) { s with keys := t.keys } = .next u
            else if (s.keys[k].active && s.keys[k].dest[p]) = false ∧ (t.keys[k].active && t.keys[k].dest[p]) = true then
              exec (.request k p) { s with keys := t.keys } = .next u
            else u = { s with keys := t.keys }) ∧
          (if t.keys[k].priority ≠ s.keys[k].priority then exec (.reconsideration k p) u = .next v else v = u) ∧
          t.foldBacks[p] = v.foldBacks[p]) ∧
        Replied q tag (if sl.getLsbD 1 ∧ 3 < pri.toNat then .adjusted else .ok) (keyEntry t k) 0 s t
      else t = { s with ports := t.ports } ∧ Replied q tag .notAllowed (keyEntry s k) 0 s t

/-- A request reaches a party's context as R98 gives, a release as R99 and a reconsideration as R100, with the order of the list
kept; each touches no other context. While a party has a key in service no key of its list has a strictly higher priority: a
request and a release keep this law at their party, and a reconsideration of a listed key establishes it (R97). -/
def Obligations.RequestsReleasesAndReconsiderations : Prop :=
  (∀ (s : State) (k : KeyIx) (p : PartyIx), s.inReset = false →
    let f := s.foldBacks[p]
    let pri := priorityOf s
    let served : FoldBack → Prop := fun g =>
      if s.parties[p].foldBack ∧ s.parties[p].state.connected ∧ g.list ≠ [] then
        ∃ j, g.inService = some j ∧ Selected pri g.list j
      else g.inService = none
    (∃ t, exec (.request k p) s = .next t ∧
      t = { s with foldBacks := t.foldBacks } ∧ SameBut p s.foldBacks t.foldBacks ∧
      if s.parties[p].state.connected = false ∨ k ∈ f.list then t.foldBacks[p] = f
      else t.foldBacks[p].list = f.list ++ [k] ∧
        if s.parties[p].foldBack = false then t.foldBacks[p].inService = f.inService
        else match f.inService with
          | none => served t.foldBacks[p]
          | some j => t.foldBacks[p].inService = some (if pri k < pri j then k else j)) ∧
    (∃ t, exec (.release k p) s = .next t ∧
      t = { s with foldBacks := t.foldBacks } ∧ SameBut p s.foldBacks t.foldBacks ∧
      if k ∈ f.list then t.foldBacks[p].list = f.list.erase k ∧
        if f.inService = some k then served t.foldBacks[p] else t.foldBacks[p].inService = f.inService
      else t.foldBacks[p] = f) ∧
    ∃ t, exec (.reconsideration k p) s = .next t ∧
      t = { s with foldBacks := t.foldBacks } ∧
      SameBut p s.foldBacks t.foldBacks ∧ t.foldBacks[p].list = f.list ∧
      if k ∈ f.list then
        match f.inService with
        | none => served t.foldBacks[p]
        | some j => if ∃ i ∈ f.list, pri i < pri j then ∃ i, t.foldBacks[p].inService = some i ∧ Selected pri f.list i
            else t.foldBacks[p].inService = some j
      else t.foldBacks[p] = f) ∧
  ∀ (s : State) (k : KeyIx) (p : PartyIx), s.inReset = false → FoldBacksOk s →
    (∀ c ∈ [Instr.request k p, Instr.release k p], ServesHighest (priorityOf s) s.foldBacks[p] →
      ∃ t, exec c s = .next t ∧ ServesHighest (priorityOf t) t.foldBacks[p]) ∧
    (k ∈ s.foldBacks[p].list →
      ∃ t, exec (.reconsideration k p) s = .next t ∧ ServesHighest (priorityOf t) t.foldBacks[p])

/-! ## Air delays (chapter 6) -/

/-- DELAY_WRITE_READ writes the programme bus output of the frame at the word of count W and no other word, advances W, and
reads by the frame's kind: an insert frame gives the last sample again and leaves Rd; a skip frame reads at Rd + 1 and advances
by 2; any other reads at Rd and advances by 1; a read at the count just written gives the frame's own input. The sample read and
the peak are kept, and the length moves by one in an insert or a skip alone. A frame's output AIRk is the sample that the delay
reads in it, faded out in DUMP_OUT and faded in in DUMP_IN (R112, R115, R119 to R121, R123, R125; that the frame is the one last
formed is log 15, the target and ratio in use log 14). The frame computation takes the memory size mode stored, and the frame's
accesses keep it (the model's reading of R113's next frame, log 31). On the delay memory port a delay makes its write and then
its read, omitted at D = 0, AD1's before AD2's (R197; the count of an insert frame's read is a free value among
Rd and the counts whose words the delay itself wrote since RESET, log 18). An access
drives MCS and its strobe low, MWE in a write and MOE in a read, with its word's address, a write the data too (the model's
reading of the names of the lines, DEDUCED, log 18). Between accesses MCS is high, the data lines are high-impedance and the
address lines above the mode's are low (R197). -/
def Obligations.DelayFrameWritesAndReads : Prop :=
  (∀ (s : State) (k : Programme) (x : FrameIn), s.inReset = false → ∃ t, exec (.frameComputation x) s = .next t ∧
    t.memInUse = s.memSize ∧ (∀ j : Programme, t.memPort[j] = []) ∧
    let d := s.delays[k]
    let i := s.mix.frame
    let rebuild : Prop := d.quiet = true ∧ (i.val + 1) % ratioOf d.ratioInUse = 0
    let inserting : Prop := d.state = .building ∧ rebuild ∧ d.length < d.targetInUse
    let skipping : Prop := d.state = .shrinking ∧ rebuild ∧ d.targetInUse < d.length
    let word : Count → Nat := fun n => k.val * s.memSize.capacity + n.toNat % s.memSize.capacity
    ∃ (c : Count) (y : Sample), (skipping → c = d.rd + 1) ∧ (¬ skipping → c = d.rd) ∧
      (inserting → y = d.last) ∧
      (¬ inserting → c = d.w ∨ word c = word d.w → y = t.formed.buses[k.val]) ∧
      (¬ inserting → c ≠ d.w → word c ≠ word d.w → ∀ v, sramRead s.sram (word c) = some v → y = v) ∧
      t.formed.air[k].toInt = match d.state with
        | .dumpOut => (y.toInt * (16384 - 512 * (i.val + 1)) + 8192) / 16384
        | .dumpIn => (y.toInt * (512 * (i.val + 1)) + 8192) / 16384
        | .bypass | .building | .atTarget | .shrinking => y.toInt) ∧
  (∀ (a : BitVec 22) (v : Sample),
    (MemAccess.write a v).lines = { mcs := false, mwe := false, moe := true, ma := a, md := some v } ∧
    (MemAccess.read a).lines = { mcs := false, mwe := true, moe := false, ma := a, md := none }) ∧
  ∀ (s : State) (k : Programme), s.inReset = false → ∃ t, exec (.delayWriteRead k) s = .next t ∧
    t = { s with delays := t.delays, sram := t.sram, writers := t.writers, memPort := t.memPort } ∧ SameBut k s.delays t.delays ∧
    SameBut k s.memPort t.memPort ∧ portAccesses t = t.memPort[0] ++ t.memPort[1] ∧
    (idleLines t).mcs = true ∧ (idleLines t).md = none ∧ (idleLines t).ma.toNat < 2 * t.memInUse.capacity ∧
    let d := s.delays[k]
    let x := s.formed.buses[k.val]
    let rebuild : Prop := d.quiet = true ∧ (s.formed.index.val + 1) % ratioOf d.ratioInUse = 0
    let inserting : Prop := d.state = .building ∧ rebuild ∧ d.length < d.targetInUse
    let skipping : Prop := d.state = .shrinking ∧ rebuild ∧ d.targetInUse < d.length
    let word : Count → Nat := fun n => k.val * s.memInUse.capacity + n.toNat % s.memInUse.capacity
    sramRead t.sram (word d.w) = some x ∧ (∀ a, a ≠ word d.w → sramRead t.sram a = sramRead s.sram a) ∧
    sramRead t.writers (word d.w) = some k ∧ (∀ a, a ≠ word d.w → sramRead t.writers a = sramRead s.writers a) ∧
    (inserting → t.delays[k] = { d with
        w := d.w + 1, last := d.last, peak := max d.peak (min 8388607 d.last.toInt.natAbs) } ∧
      (d.rd = d.w → t.memPort[k] = [.write (BitVec.ofNat 22 (word d.w)) x]) ∧
      (d.rd ≠ d.w → ∃ c, (c = d.rd ∨ sramRead t.writers (word c) = some k) ∧
        t.memPort[k] = [.write (BitVec.ofNat 22 (word d.w)) x, .read (BitVec.ofNat 22 (word c))])) ∧
    (skipping → ∃ y, t.delays[k] = { d with
        w := d.w + 1, rd := d.rd + 2, last := y, peak := max d.peak (min 8388607 y.toInt.natAbs) } ∧
      (d.rd + 1 = d.w → y = x) ∧
      (d.rd + 1 ≠ d.w → ∀ v, sramRead t.sram (word (d.rd + 1)) = some v → y = v) ∧
      (d.rd ≠ d.w →
        t.memPort[k] = [.write (BitVec.ofNat 22 (word d.w)) x, .read (BitVec.ofNat 22 (word (d.rd + 1)))])) ∧
    (¬ inserting → ¬ skipping → ∃ y, t.delays[k] = { d with
        w := d.w + 1, rd := d.rd + 1, last := y, peak := max d.peak (min 8388607 y.toInt.natAbs) } ∧
      (d.rd = d.w → y = x ∧ t.memPort[k] = [.write (BitVec.ofNat 22 (word d.w)) x]) ∧
      (d.rd ≠ d.w → (∀ v, sramRead t.sram (word d.rd) = some v → y = v) ∧
        t.memPort[k] = [.write (BitVec.ofNat 22 (word d.w)) x, .read (BitVec.ofNat 22 (word d.rd))])) ∧
    (DelayOk s.memSize d →
      (inserting → t.delays[k].length = d.length + 1) ∧ (skipping → t.delays[k].length + 1 = d.length) ∧
      (¬ inserting → ¬ skipping → t.delays[k].length = d.length))

/-- DELAY_PERIOD_START sets the quiet flag by the peak of the period, makes the dump progress (the jump out of DUMP_OUT, a
pending dump out of DUMP_IN, an accepted dump into DUMP_OUT) and otherwise takes the state from D and T, and with it the target
and the ratio to be used; every other field of the delay stands. It raises DELAY at a change of state, and removes each mark of
its programme whose guard's test fails. The next frame has begun, so the memory size mode stored is in use (log 31). DUMP_JUMP
is that event where it ends a DUMP_OUT period, and changes nothing elsewhere (log 10) (R117 to R119, R123 to R125, R129, R130,
R133). -/
def Obligations.DelayPeriodStartTakesTheState : Prop :=
  ∀ (s : State) (k : Programme), s.inReset = false →
    (∃ t, exec (.delayPeriodStart k) s = .next t ∧
      t = { s with delays := t.delays, parties := t.parties, ports := t.ports, memInUse := s.memSize } ∧
      SameBut k s.delays t.delays ∧
      Raised (flagIf (decide (t.delays[k].state ≠ s.delays[k].state)) .delay) s t ∧
      (let d := s.delays[k]
       let e := t.delays[k]
       let jump := if d.segment = 0 then d.length else min (d.dumps * d.segment * 32) d.length
       let taken : DelayState :=
        if d.state = .bypass then if d.target = 0 then .bypass else .building
        else if d.target = 0 ∧ d.length = 0 then .bypass
        else if d.length < d.target then .building else if d.length = d.target then .atTarget else .shrinking
       let judged : Bool :=
        if d.state = .bypass then d.quiet
        else if levelCode d.peak ≤ d.qEnter then true else if d.qLeave ≤ levelCode d.peak then false else d.quiet
       e = match d.state with
       | .dumpOut => { d with
          peak := 0, quiet := judged, state := .dumpIn, rd := d.rd + BitVec.ofNat 32 jump, lastJump := jump, dumps := 0 }
       | .dumpIn =>
          if d.dumpPending then { d with peak := 0, quiet := judged, state := .dumpOut, dumps := 1, dumpPending := false }
          else { d with peak := 0, quiet := judged, state := taken, targetInUse := d.target, ratioInUse := d.ratioCode }
       | .bypass | .building | .atTarget | .shrinking =>
          if 0 < d.dumps then { d with peak := 0, quiet := judged, state := .dumpOut }
          else { d with
            peak := 0, quiet := if d.state = .bypass ∧ taken = .building then false else judged, state := taken
            targetInUse := d.target, ratioInUse := d.ratioCode }) ∧
      ∀ p : PartyIx, t.parties[p] = { s.parties[p] with
        echoMark := match s.parties[p].echoMark with
          | none => none
          | some m =>
            if s.parties[p].programme = k ∧ ¬ ((s.parties[p].state = .hold ∨ s.parties[p].state = .ready) ∧
                t.delays[k].state ≠ .bypass ∧ 1 ≤ (m - t.delays[k].rd).toNat ∧
                (m - t.delays[k].rd).toNat ≤ s.memSize.capacity) then none
            else some m }) ∧
    ∃ t, exec (.dumpJump k) s = .next t ∧
      if s.delays[k].state = .dumpOut then exec (.delayPeriodStart k) s = .next t else t = s

/-- A dump request is taken by the delay's state: refused in BYPASS and with D below 32, accepted, merged up to 255, made
pending in DUMP_IN, or already so; DUMP from ENGINEERING or from the studio of the delay replies with its entry, another role is
NOT_ALLOWED; a rise of the trigger cell is taken likewise without a reply, and a fall is recorded alone (R122, R126; logs 8 and
12 for the delivery taken). -/
def Obligations.DumpRequestsAreTakenByTheState : Prop :=
  let taken : Delay → Delay × Result := fun d =>
    match d.state with
    | .bypass => (d, .illegal)
    | .building | .atTarget | .shrinking =>
      if d.dumps = 0 then if d.length < 32 then (d, .illegal) else ({ d with dumps := 1 }, .ok)
      else if d.dumps < 255 then ({ d with dumps := d.dumps + 1 }, .ok) else (d, .already)
    | .dumpOut => if d.dumps < 255 then ({ d with dumps := d.dumps + 1 }, .ok) else (d, .already)
    | .dumpIn =>
      if d.dumpPending then (d, .already) else if d.length < 32 then (d, .illegal)
      else ({ d with dumpPending := true }, .ok)
  (∀ (s : State) (q : PortIx) (tag : Byte) (k : Programme), s.inReset = false →
    ∃ t, exec (.dump q tag [programmeCode k]) s = .next t ∧
      if s.ports[q].role = .engineering ∨ s.ports[q].role = .studio k then
        t = { s with delays := t.delays, ports := t.ports } ∧ SameBut k s.delays t.delays ∧
        t.delays[k] = (taken s.delays[k]).1 ∧ Replied q tag (taken s.delays[k]).2 (delayBody t k) 0 s t
      else t = { s with ports := t.ports } ∧ Replied q tag .notAllowed (delayBody s k) 0 s t) ∧
  ∀ (s : State) (k : Programme) (c : CellIx) (out : Bool), s.inReset = false →
    ∃ t, exec (.delayTrigger k c out) s = .next t ∧
      if s.delays[k].trigger = some c then
        t = { s with delays := t.delays, handed := s.handed.erase (.delayTrigger k c out) } ∧ SameBut k s.delays t.delays ∧
        t.delays[k] =
          (if s.delays[k].triggerOut = false ∧ out = true then (taken { s.delays[k] with triggerOut := true }).1
            else { s.delays[k] with triggerOut := out })
      else t = { s with handed := s.handed.erase (.delayTrigger k c out) }

/-- SET DELAY from ENGINEERING stores each selected setting and no other: the target at most the mode's maximum, the segment at
most 65534, the ratio code at most 3, Q_enter at most 14, Q_leave at most 15 and above Q_enter; each change answers ADJUSTED; a
new trigger cell gives its present output; another role is NOT_ALLOWED (R131, R118). SET MEMORY SIZE from ENGINEERING with both
delays in BYPASS stores the mode, which the running frame does not take, and lowers each target to its maximum; with a delay
running it is BUSY, from another role NOT_ALLOWED, and stores nothing (R113; log 23 for the trigger output). -/
def Obligations.DelaySettingsAreStored : Prop :=
  (∀ (s : State) (q : PortIx) (tag : Byte) (k : Programme) (sh sl t1 t0 g1 g0 r qe ql hm trig : Byte), s.inReset = false →
    (sl.getLsbD 5 = true → hm.toNat < 2) → (sl.getLsbD 6 = true → trig.toNat ≤ 8) →
    ∃ t, exec (.setDelay q tag [programmeCode k, sh, sl, t1, t0, g1, g0, r, qe, ql, hm, trig]) s = .next t ∧
      let target := t1.toNat * 256 + t0.toNat
      let segment := g1.toNat * 256 + g0.toNat
      let enter := if sl.getLsbD 3 then min 14 qe.toNat else s.delays[k].qEnter
      let leave := if sl.getLsbD 4 then min 15 ql.toNat else s.delays[k].qLeave
      if s.ports[q].role = .engineering then
        t = { s with delays := t.delays, ports := t.ports } ∧ SameBut k s.delays t.delays ∧
        t.delays[k] = { s.delays[k] with
          target := if sl.getLsbD 0 then 32 * min target s.memSize.targetMax else s.delays[k].target
          segment := if sl.getLsbD 1 then min 65534 segment else s.delays[k].segment
          ratioCode := t.delays[k].ratioCode, qEnter := enter, qLeave := max leave (enter + 1)
          holdFeed := if sl.getLsbD 5 then if hm = 0 then .pre else .air else s.delays[k].holdFeed
          trigger := t.delays[k].trigger
          triggerOut :=
            if t.delays[k].trigger = s.delays[k].trigger then s.delays[k].triggerOut
            else match t.delays[k].trigger with | some c => s.cells[c].output | none => false } ∧
        t.delays[k].ratioCode.val = (if sl.getLsbD 2 then min 3 r.toNat else s.delays[k].ratioCode.val) ∧
        (∀ c : CellIx, t.delays[k].trigger = some c ↔
          if sl.getLsbD 6 then trig.toNat = c.val else s.delays[k].trigger = some c) ∧
        Replied q tag
          (if (sl.getLsbD 0 ∧ s.memSize.targetMax < target) ∨ (sl.getLsbD 1 ∧ 65534 < segment) ∨ (sl.getLsbD 2 ∧ 3 < r.toNat) ∨
              (sl.getLsbD 3 ∧ 14 < qe.toNat) ∨ (sl.getLsbD 4 ∧ 15 < ql.toNat) ∨ leave ≤ enter then .adjusted else .ok)
          (delayBody t k) 0 s t
      else t = { s with ports := t.ports } ∧ Replied q tag .notAllowed (delayBody s k) 0 s t) ∧
  ∀ (s : State) (q : PortIx) (tag : Byte) (m : MemSize), s.inReset = false →
    ∃ t, exec (.setMemorySize q tag [m.code]) s = .next t ∧
      if s.ports[q].role ≠ .engineering then t = { s with ports := t.ports } ∧ Replied q tag .notAllowed [s.memSize.code] 0 s t
      else if s.delays[0].state ≠ .bypass ∨ s.delays[1].state ≠ .bypass then
        t = { s with ports := t.ports } ∧ Replied q tag .busy [s.memSize.code] 0 s t
      else t = { s with memSize := m, delays := t.delays, ports := t.ports } ∧
        (∀ k : Programme, t.delays[k] = { s.delays[k] with target := min s.delays[k].target m.lMax }) ∧
        Replied q tag (if m.lMax < s.delays[0].target ∨ m.lMax < s.delays[1].target then .adjusted else .ok) [m.code] 0 s t

/-! ## Tone players (chapter 7) -/

/-- WRITE STEPS and WRITE PITCHES from ENGINEERING with no player busy store their entries at consecutive addresses that run on
from the last to the first, a length of 0 as 1 and an increment within 1 to 16384, each adjusted, and change no other entry;
with a player busy they are BUSY, from another role NOT_ALLOWED, and store nothing. READ TONE MEMORY gives the entries in the
same order to every role; another selection, address or count is ILLEGAL. A reply carries the selection, the address, the count
and two bytes for each entry: END, level and pitch, then the length, of a step; the increment of a pitch (R138, R139, R198; that
the two bits above the length are sent as 0 is the model's choice, log 33). -/
def Obligations.ToneMemoryIsWrittenAndRead : Prop :=
  (∀ (s : State) (q : PortIx) (tag a : Byte) (xs : List (Byte × Byte)), s.inReset = false → 1 ≤ xs.length → xs.length ≤ 60 →
    ∃ t, exec (.writeSteps q tag (a :: xs.flatMap fun e => [e.1, e.2])) s = .next t ∧
      if s.ports[q].role ≠ .engineering then
        t = { s with ports := t.ports } ∧ Replied q tag .notAllowed (stepsBody s a xs.length) 0 s t
      else if ∃ j : PlayerIx, s.players[j].state ≠ .idle then
        t = { s with ports := t.ports } ∧ Replied q tag .busy (stepsBody s a xs.length) 0 s t
      else t = { s with steps := t.steps, ports := t.ports } ∧
        (∀ (n : Nat) (h : n < xs.length), stepAt t.steps (a + BitVec.ofNat 8 n) =
          { pitch := ⟨xs[n].1.toNat % 32, by omega⟩, length := max 1 (xs[n].2.toNat % 64),
            level := ⟨xs[n].1.toNat / 32 % 4, by omega⟩, last := xs[n].1.getLsbD 7 }) ∧
        (∀ b : Byte, (∀ n < xs.length, b ≠ a + BitVec.ofNat 8 n) → stepAt t.steps b = stepAt s.steps b) ∧
        Replied q tag (if ∃ e ∈ xs, e.2.toNat % 64 = 0 then .adjusted else .ok) (stepsBody t a xs.length) 0 s t) ∧
  (∀ (s : State) (q : PortIx) (tag : Byte) (a : Fin 32) (xs : List (Byte × Byte)), s.inReset = false → 1 ≤ xs.length →
    xs.length ≤ 32 →
    ∃ t, exec (.writePitches q tag (byte a.val :: xs.flatMap fun e => [e.1, e.2])) s = .next t ∧
      if s.ports[q].role ≠ .engineering then
        t = { s with ports := t.ports } ∧ Replied q tag .notAllowed (pitchesBody s a xs.length) 0 s t
      else if ∃ j : PlayerIx, s.players[j].state ≠ .idle then
        t = { s with ports := t.ports } ∧ Replied q tag .busy (pitchesBody s a xs.length) 0 s t
      else t = { s with pitches := t.pitches, ports := t.ports } ∧
        (∀ (n : Nat) (h : n < xs.length), t.pitches[a + Fin.ofNat 32 n] =
          max 1 (min 16384 (xs[n].1.toNat * 256 + xs[n].2.toNat))) ∧
        (∀ b : Fin 32, (∀ n < xs.length, b ≠ a + Fin.ofNat 32 n) → t.pitches[b] = s.pitches[b]) ∧
        Replied q tag
          (if ∃ e ∈ xs, e.1.toNat * 256 + e.2.toNat = 0 ∨ 16384 < e.1.toNat * 256 + e.2.toNat then .adjusted else .ok)
          (pitchesBody t a xs.length) 0 s t) ∧
  (∀ (s : State) (a : Byte) (n : Nat), (stepsBody s a n).take 3 = [0, a, BitVec.ofNat 8 n] ∧ (stepsBody s a n).length = 3 + 2 * n ∧
    ∀ j < n, let x := stepAt s.steps (a + BitVec.ofNat 8 j)
      (stepsBody s a n)[3 + 2 * j]? =
        some (BitVec.ofNat 8 ((if x.last then 128 else 0) + 32 * x.level.val + x.pitch.val)) ∧
      (stepsBody s a n)[4 + 2 * j]? = some (BitVec.ofNat 8 x.length)) ∧
  (∀ (s : State) (a : Fin 32) (n : Nat), (pitchesBody s a n).take 3 = [1, BitVec.ofNat 8 a.val, BitVec.ofNat 8 n] ∧
    (pitchesBody s a n).length = 3 + 2 * n ∧
    ∀ j < n, (pitchesBody s a n)[3 + 2 * j]? = some (BitVec.ofNat 8 (s.pitches[a + Fin.ofNat 32 j] / 256)) ∧
      (pitchesBody s a n)[4 + 2 * j]? = some (BitVec.ofNat 8 s.pitches[a + Fin.ofNat 32 j])) ∧
  (∀ (s : State) (q : PortIx) (tag c a n : Byte), s.inReset = false → 2 ≤ c.toNat →
    ∃ t, exec (.readToneMemory q tag [c, a, n]) s = .next t ∧ t = { s with ports := t.ports } ∧ Replied q tag .illegal [] 0 s t) ∧
  ∀ (s : State) (q : PortIx) (tag a n : Byte), s.inReset = false →
    (∃ t, exec (.readToneMemory q tag [0, a, n]) s = .next t ∧ t = { s with ports := t.ports } ∧
      if 1 ≤ n.toNat ∧ n.toNat ≤ 60 then Replied q tag .ok (stepsBody s a n.toNat) 0 s t else Replied q tag .illegal [] 0 s t) ∧
    ∃ t, exec (.readToneMemory q tag [1, a, n]) s = .next t ∧ t = { s with ports := t.ports } ∧
      if h : a.toNat < 32 ∧ 1 ≤ n.toNat ∧ n.toNat ≤ 32 then Replied q tag .ok (pitchesBody s ⟨a.toNat, h.1⟩ n.toNat) 0 s t
      else Replied q tag .illegal [] 0 s t

/-- SET PLAYER and SET TONE ROUTE from ENGINEERING store each selected setting and no other: a tick length of 0 as 1, adjusted;
a new trigger cell with its present output; the lower four bits of a player set, adjusted where an upper one is 1; a gain above
192 as 255. A state without a route is ILLEGAL; another role is NOT_ALLOWED and stores nothing (R141, R148; log 23 for the
trigger output). -/
def Obligations.PlayerAndRouteSettingsAreStored : Prop :=
  (∀ (s : State) (q : PortIx) (tag : Byte) (j : PlayerIx) (sh sl a tick m trig : Byte), s.inReset = false →
    (sl.getLsbD 2 = true → m.toNat < 2) → (sl.getLsbD 3 = true → trig.toNat ≤ 8) →
    ∃ t, exec (.setPlayer q tag [byte j.val, sh, sl, a, tick, m, trig]) s = .next t ∧
      if s.ports[q].role = .engineering then
        t = { s with players := t.players, ports := t.ports } ∧ SameBut j s.players t.players ∧
        t.players[j] = { s.players[j] with
          start := if sl.getLsbD 0 then a else s.players[j].start
          tick := if sl.getLsbD 1 then max 1 tick.toNat else s.players[j].tick
          mode := if sl.getLsbD 2 then if m = 0 then .oneshot else .continuous else s.players[j].mode
          trigger := t.players[j].trigger
          triggerOut :=
            if t.players[j].trigger = s.players[j].trigger then s.players[j].triggerOut
            else match t.players[j].trigger with | some c => s.cells[c].output | none => false } ∧
        (∀ c : CellIx, t.players[j].trigger = some c ↔
          if sl.getLsbD 3 then trig.toNat = c.val else s.players[j].trigger = some c) ∧
        Replied q tag (if sl.getLsbD 1 ∧ tick = 0 then .adjusted else .ok) (playerEntry t j) 0 s t
      else t = { s with ports := t.ports } ∧ Replied q tag .notAllowed (playerEntry s j) 0 s t) ∧
  ∀ (s : State) (q : PortIx) (tag st sh sl set gain : Byte), s.inReset = false →
    ∃ t, exec (.setToneRoute q tag [st, sh, sl, set, gain]) s = .next t ∧
      let route : Option (Fin 6) := match st.toNat with
        | 2 => some 0 | 3 => some 1 | 4 => some 2 | 9 => some 3 | 5 => some 4 | 6 => some 5 | _ => none
      match route with
      | none => t = { s with ports := t.ports } ∧ Replied q tag .illegal [] 0 s t
      | some r =>
        if s.ports[q].role = .engineering then
          t = { s with routes := t.routes, ports := t.ports } ∧ SameBut r s.routes t.routes ∧
          (∀ j : PlayerIx, t.routes[r].players[j] = if sl.getLsbD 0 then set.getLsbD j.val else s.routes[r].players[j]) ∧
          t.routes[r].gain = (if sl.getLsbD 1 then if gain.toNat ≤ 192 then gain else 255 else s.routes[r].gain) ∧
          Replied q tag (if sl.getLsbD 0 ∧ 16 ≤ set.toNat then .adjusted else .ok)
            [st, byte (maskNat t.routes[r].players), t.routes[r].gain] 0 s t
        else t = { s with ports := t.ports } ∧
          Replied q tag .notAllowed [st, byte (maskNat s.routes[r].players), s.routes[r].gain] 0 s t

/-- START, STOP and ABORT are taken by the player's state from every role, each with its table; a player number above 3 is
ILLEGAL. A delivered rise of the trigger cell is a START and a fall in CONTINUOUS mode a STOP, without a reply; a fall in
ONESHOT mode is recorded alone (R143 to R146; logs 8 and 12 for the delivery taken). -/
def Obligations.PlayersStartStopAndAbort : Prop :=
  let started : Player → Player × Result := fun x =>
    match x.state with
    | .idle => ({ x with
        state := .playing, latchedStart := x.start, latchedTick := x.tick, stepPending := true, remaining := 0 }, .ok)
    | .playing => (x, if x.abort = .clear then .already else .busy)
    | .stopping => if x.abort = .clear then ({ x with state := .playing }, .ok) else (x, .busy)
  let stopped : Player → Player × Result := fun x =>
    if x.state = .playing ∧ x.abort = .clear then ({ x with state := .stopping }, .ok) else (x, .already)
  let aborted : Player → Player × Result := fun x =>
    if x.state ≠ .idle ∧ x.abort = .clear then ({ x with abort := .requested }, .ok) else (x, .already)
  (∀ e ∈ ([(.start, started), (.stop, stopped), (.abort, aborted)] :
      List ((PortIx → Byte → List Byte → Instr) × (Player → Player × Result))),
    ∀ (s : State) (q : PortIx) (tag : Byte) (j : PlayerIx), s.inReset = false →
      (∃ t, exec (e.1 q tag [byte j.val]) s = .next t ∧ t = { s with players := t.players, ports := t.ports } ∧
        SameBut j s.players t.players ∧ t.players[j] = (e.2 s.players[j]).1 ∧
        Replied q tag (e.2 s.players[j]).2 (playerEntry t j) 0 s t) ∧
      ∀ n : Byte, 4 ≤ n.toNat → ∃ t, exec (e.1 q tag [n]) s = .next t ∧ t = { s with ports := t.ports } ∧
        Replied q tag .illegal [] 0 s t) ∧
  ∀ (s : State) (j : PlayerIx) (c : CellIx) (out : Bool), s.inReset = false →
    ∃ t, exec (.playerTrigger j c out) s = .next t ∧
      if s.players[j].trigger = some c then
        t = { s with players := t.players, handed := s.handed.erase (.playerTrigger j c out) } ∧
        SameBut j s.players t.players ∧
        t.players[j] =
          (let x := { s.players[j] with triggerOut := out }
           if s.players[j].triggerOut = false ∧ out = true then (started x).1
           else if s.players[j].triggerOut = true ∧ out = false ∧ x.mode = .continuous then (stopped x).1
           else x)
      else t = { s with handed := s.handed.erase (.playerTrigger j c out) }

/-- PLAYER_PERIOD_START: an IDLE player stands; the fade of an abort ends the play; a pending step begins at the latched start,
or ends the play of a STOPPING player; a step in progress counts a period and, when it is complete, ends the play (STOPPING, or
END in ONESHOT mode), goes back to the latched start (END in CONTINUOUS mode) or goes on to the next address; a requested abort
of a player still busy then begins its fade; TONE is raised where the player goes IDLE. STEP_COMPLETE and ABORT_FADE_END are
that event where a step completes or a fade ends, and change nothing elsewhere (log 10) (R142, R145, R150). -/
def Obligations.PlayerPeriodStartMakesStepProgress : Prop :=
  ∀ (s : State) (j : PlayerIx), s.inReset = false →
    (∃ t, exec (.playerPeriodStart j) s = .next t ∧ t = { s with players := t.players, ports := t.ports } ∧
      SameBut j s.players t.players ∧
      (let x := s.players[j]
       let ended : Player := { x with state := .idle, remaining := 0, stepPending := false, abort := .clear }
       let began : Byte → Player := fun a =>
        { x with
          stepAddr := a, current := stepAt s.steps a, remaining := (stepAt s.steps a).length * x.latchedTick, phase := 0
          stepPending := false, abort := if x.abort = .requested then .fading else x.abort }
       t.players[j] =
        if x.state = .idle then x
        else if x.abort = .fading then ended
        else if x.stepPending then if x.state = .stopping then ended else began x.latchedStart
        else if 1 < x.remaining then
          { x with remaining := x.remaining - 1, abort := if x.abort = .requested then .fading else x.abort }
        else if x.state = .stopping ∨ (x.current.last = true ∧ x.mode = .oneshot) then ended
        else if x.current.last = true then began x.latchedStart
        else began (x.stepAddr + 1)) ∧
      Raised (flagIf (decide (s.players[j].state ≠ .idle ∧ t.players[j].state = .idle)) .tone) s t) ∧
    (∃ t, exec (.stepComplete j) s = .next t ∧
      if s.players[j].state ≠ .idle ∧ s.players[j].abort ≠ .fading ∧ s.players[j].stepPending = false ∧
          s.players[j].remaining ≤ 1 then exec (.playerPeriodStart j) s = .next t else t = s) ∧
    ∃ t, exec (.abortFadeEnd j) s = .next t ∧
      if s.players[j].state ≠ .idle ∧ s.players[j].abort = .fading then exec (.playerPeriodStart j) s = .next t else t = s

/-- The waveform: the phase of a player in a step of pitch 1 to 31 advances by its increment in each frame, modulo 65536, and
any other stands; the tone sample is the triangle of the phase at the step's level, within its peak, a rest is 0, and the output
is the tone, its fade in the fade period of an abort, or 0 without a step (R147). -/
def Obligations.TonesFollowTheirTriangle : Prop :=
  (∀ (s : State) (x : FrameIn) (j : PlayerIx), s.inReset = false → ∃ t, exec (.frameComputation x) s = .next t ∧
    t.players[j] = { s.players[j] with
      phase :=
        if s.players[j].state ≠ .idle ∧ s.players[j].stepPending = false ∧ s.players[j].current.pitch ≠ 0 then
          s.players[j].phase + BitVec.ofNat 16 s.pitches[s.players[j].current.pitch]
        else s.players[j].phase }) ∧
  ∀ (x : Player) (i : FrameIx),
    (x.current.pitch = 0 → toneSample x = 0) ∧
    (x.current.pitch ≠ 0 →
      toneSample x * 2 ^ x.current.level.val =
        (2 * (if x.phase.toNat < 32768 then (x.phase.toNat : Int) else 65535 - x.phase.toNat) - 32767) * 256) ∧
    |toneSample x| * 2 ^ x.current.level.val ≤ 8388352 ∧
    playerOut x i =
      (if x.state = .idle ∨ x.stepPending = true then 0
        else if x.abort = .fading then (toneSample x * (16384 - 512 * (i.val + 1)) + 8192) / 16384 else toneSample x)

/-! ## Metering and supervision (chapter 8) -/

/-- SET METERING, CLEAR CLIPS and SET SUPERVISOR store what they select. SET METERING keeps the window within 6 to 12 and the
repeat at 2 or more, and sets every valid flag false where metering is started from OFF; CLEAR CLIPS clears the flags of its run
of points alone, and the reply gives the flag of point p in bit p mod 8 of byte p div 8; SET SUPERVISOR brings the supervisor
into range, ADJUSTED where a setting sent or kept was not within it, restarts it where its point, mode, threshold or K changes
or it is disabled, and raises SUPERVISE where that ends an ALARM. A role without the right is NOT_ALLOWED and stores nothing
(R156, R159, R162, R163). -/
def Obligations.MeterCommandsStoreTheirSettings : Prop :=
  (∀ (s : State) (q : PortIx) (tag sh sl m w r : Byte), s.inReset = false → (sl.getLsbD 0 = true → m.toNat < 3) →
    ∃ t, exec (.setMetering q tag [sh, sl, m, w, r]) s = .next t ∧
      if s.ports[q].role = .engineering then
        t = { s with meter := t.meter, points := t.points, ports := t.ports } ∧
        t.meter = { s.meter with
          mode := if sl.getLsbD 0 then if m = 0 then .off else if m = 1 then .continuous else .periodic else s.meter.mode
          window := if sl.getLsbD 1 then max 6 (min 12 w.toNat) else s.meter.window
          repeats := if sl.getLsbD 2 then max 2 r.toNat else s.meter.repeats } ∧
        (∀ n : PointIx, t.points[n] = { s.points[n] with
          valid := s.points[n].valid && !decide (s.meter.mode = .off ∧ t.meter.mode ≠ .off) }) ∧
        Replied q tag
          (if (sl.getLsbD 1 ∧ (w.toNat < 6 ∨ 12 < w.toNat)) ∨ (sl.getLsbD 2 ∧ r.toNat < 2) then .adjusted else .ok)
          (meterBody t) 0 s t
      else t = { s with ports := t.ports } ∧ Replied q tag .notAllowed (meterBody s) 0 s t) ∧
  (∀ (s : State) (q : PortIx) (tag first n : Byte), s.inReset = false → first.toNat ≤ 70 → 1 ≤ n.toNat →
    first.toNat + n.toNat ≤ 71 →
    ∃ t, exec (.clearClips q tag [first, n]) s = .next t ∧
      if s.ports[q].role = .screener then t = { s with ports := t.ports } ∧ Replied q tag .notAllowed (clipBody s) 0 s t
      else t = { s with points := t.points, ports := t.ports } ∧
        (∀ j : PointIx, t.points[j] = { s.points[j] with
          clip := s.points[j].clip && !decide (first.toNat ≤ j.val ∧ j.val < first.toNat + n.toNat) }) ∧
        Replied q tag .ok (clipBody t) 0 s t) ∧
  (∀ s : State, (clipBody s).length = 9 ∧ ∀ i : Fin 72, ((clipBody s).getD (i.val / 8) 0).getLsbD (i.val % 8) =
    if h : i.val < 71 then (s.points[i.val]'h).clip else false) ∧
  ∀ (s : State) (q : PortIx) (tag : Byte) (i : SupIx) (sh sl en pt m th k h : Byte), s.inReset = false →
    (sl.getLsbD 2 = true → m.toNat < 2) →
    ∃ t, exec (.setSupervisor q tag [byte i.val, sh, sl, en, pt, m, th, k, h]) s = .next t ∧
      let x := s.sups[i]
      let y := t.sups[i]
      let sentTh := if sl.getLsbD 3 then th.toNat else x.threshold
      let sentK := if sl.getLsbD 4 then k.toNat else x.count
      let sentH := if sl.getLsbD 5 then h.toNat else x.hyst
      let room := if y.mode = .silence then 15 - y.threshold else y.threshold
      let restarts : Prop := y.point ≠ x.point ∨ y.mode ≠ x.mode ∨ y.threshold ≠ x.threshold ∨ y.count ≠ x.count ∨
        (x.enable = true ∧ y.enable = false)
      if s.ports[q].role = .engineering then
        t = { s with sups := t.sups, ports := t.ports } ∧ SameBut i s.sups t.sups ∧
        y.enable = (if sl.getLsbD 0 then decide (en ≠ 0) else x.enable) ∧
        y.point.val = (if sl.getLsbD 1 then min 70 pt.toNat else x.point.val) ∧
        y.mode = (if sl.getLsbD 2 then if m = 0 then .silence else .overload else x.mode) ∧
        y.threshold = (if y.mode = .silence then min 14 sentTh else max 1 (min 15 sentTh)) ∧
        y.count = max 1 (min 15 sentK) ∧
        y.hyst = min room (max 1 (min 3 sentH)) ∧
        (restarts → y.alarm = false ∧ y.run = 0) ∧ (¬ restarts → y.alarm = x.alarm ∧ y.run = x.run) ∧
        Replied q tag
          (if (sl.getLsbD 0 ∧ 1 < en.toNat) ∨ (sl.getLsbD 1 ∧ 70 < pt.toNat) ∨
              (if y.mode = .silence then 14 < sentTh else sentTh = 0 ∨ 15 < sentTh) ∨ sentK = 0 ∨ 15 < sentK ∨
              sentH = 0 ∨ 3 < sentH ∨ room < max 1 (min 3 sentH) then .adjusted else .ok)
          (supEntry t i) (flagIf (x.alarm && !y.alarm) .supervise) s t
      else t = { s with ports := t.ports } ∧ Replied q tag .notAllowed (supEntry s i) 0 s t

/-- METER_PERIOD_START completes a measurement whose window ends there: every code is the level code of its mean and valid, the
count advances, and each enabled supervisor is evaluated on the new code of its point, SUPERVISE raised at a change of state;
and it takes the phase by the settings stored. MEASUREMENT_COMPLETE and WAITING_END are that event where a window or a wait
ends, and change nothing elsewhere (log 10) (R154, R155, R161). The level code of a magnitude is its bit length less 8, or 0:
0 below 256, and c from 2^(c+7) up to 2^(c+8) (R152). -/
def Obligations.MeterPeriodStartTakesThePhase : Prop :=
  (∀ m : Nat, m ≤ 8388607 → (m < 256 → levelCode m = 0) ∧
    ∀ c : Nat, 1 ≤ c → (levelCode m = c ↔ 2 ^ (c + 7) ≤ m ∧ m < 2 ^ (c + 8))) ∧
  ∀ s : State, s.inReset = false →
    (∃ t, exec .meterPeriodStart s = .next t ∧
      t = { s with meter := t.meter, points := t.points, sups := t.sups, ports := t.ports } ∧
      t.meter.mode = s.meter.mode ∧ t.meter.window = s.meter.window ∧ t.meter.repeats = s.meter.repeats ∧
      (let done : Bool := decide (s.meter.phase = .measuring ∧ s.meter.periodsLeft ≤ 1)
       let code : PointIx → Nat := fun n => levelCode (s.points[n].acc / 2 ^ s.meter.windowInUse)
       let begins : Bool :=
        match s.meter.mode with
        | .off => false
        | .continuous => done || decide (s.meter.phase ≠ .measuring)
        | .periodic => decide (s.meter.phase = .stopped ∨ (s.meter.phase = .waiting ∧ s.meter.periodsLeft ≤ 1))
       (∀ n : PointIx, t.points[n] = { s.points[n] with
          acc := if begins then 0 else s.points[n].acc
          code := if done then code n else s.points[n].code
          valid := s.points[n].valid || done }) ∧
       t.meter.measurements = (if done then s.meter.measurements + 1 else s.meter.measurements) ∧
       (if begins then t.meter.phase = .measuring ∧ t.meter.windowInUse = s.meter.window ∧
            t.meter.periodsLeft = 2 ^ (s.meter.window - 5)
          else t.meter.windowInUse = s.meter.windowInUse ∧
            if s.meter.mode = .off ∧ (done = true ∨ s.meter.phase = .waiting) then
              t.meter.phase = .stopped ∧ t.meter.periodsLeft = 0
            else if done then
              t.meter.phase = .waiting ∧ t.meter.periodsLeft = (s.meter.repeats - 1) * 2 ^ (s.meter.window - 5)
            else t.meter.phase = s.meter.phase ∧
              t.meter.periodsLeft = (if s.meter.phase = .stopped then s.meter.periodsLeft else s.meter.periodsLeft - 1)) ∧
       (∀ n : SupIx,
          let x := s.sups[n]
          let c := code x.point
          let bad := if x.mode = .silence then c ≤ x.threshold else x.threshold ≤ c
          let out := if x.mode = .silence then x.threshold + x.hyst ≤ c else c ≤ x.threshold - x.hyst
          t.sups[n] =
            if done = false ∨ x.enable = false then x
            else if x.alarm = true then if out then { x with alarm := false, run := 0 } else x
            else if bad then if x.run + 1 < x.count then { x with run := x.run + 1 } else { x with alarm := true, run := x.count }
            else { x with run := 0 }) ∧
       Raised (flagIf (decide (∃ n : SupIx, t.sups[n].alarm ≠ s.sups[n].alarm)) .supervise) s t)) ∧
    (∃ t, exec .measurementComplete s = .next t ∧
      if s.meter.phase = .measuring ∧ s.meter.periodsLeft ≤ 1 then exec .meterPeriodStart s = .next t else t = s) ∧
    ∃ t, exec .waitingEnd s = .next t ∧
      if s.meter.phase = .waiting ∧ s.meter.mode = .periodic ∧ s.meter.periodsLeft ≤ 1 then exec .meterPeriodStart s = .next t
      else t = s

/-! ## Logic cells (chapter 9) -/

/-- SET CELL and SET GPO from ENGINEERING store each selected setting and no other. A change of a cell's configuration sets its
restart pending and leaves its output and evaluation state; a pin whose selection is selected takes the present output of its
cell, or the constant. Another role is NOT_ALLOWED and stores nothing (R173, R176, R177). -/
def Obligations.CellAndPinSettingsAreStored : Prop :=
  (∀ (s : State) (q : PortIx) (tag : Byte) (c : CellIx) (sh sl en i0 i1 i2 tt f ed w : Byte), s.inReset = false →
    (sl.getLsbD 1 = true → i0.toNat < 46) → (sl.getLsbD 2 = true → i1.toNat < 46) → (sl.getLsbD 3 = true → i2.toNat < 46) →
    (sl.getLsbD 5 = true → f.toNat < 3) → (sl.getLsbD 7 = true → w.toNat < 24) →
    ∃ t, exec (.setCell q tag [byte c.val, sh, sl, en, i0, i1, i2, tt, f, ed, w]) s = .next t ∧
      let x := s.cells[c]
      let y := t.cells[c]
      if s.ports[q].role = .engineering then
        t = { s with cells := t.cells, ports := t.ports } ∧ SameBut c s.cells t.cells ∧
        y.enable = (if sl.getLsbD 0 then decide (en ≠ 0) else x.enable) ∧
        y.in0.val = (if sl.getLsbD 1 then i0.toNat else x.in0.val) ∧ y.in1.val = (if sl.getLsbD 2 then i1.toNat else x.in1.val) ∧
        y.in2.val = (if sl.getLsbD 3 then i2.toNat else x.in2.val) ∧ y.table = (if sl.getLsbD 4 then tt else x.table) ∧
        y.filter = (if sl.getLsbD 5 then if f = 0 then .none else if f = 1 then .sync else .stable else x.filter) ∧
        y.edge = (if sl.getLsbD 6 then decide (ed ≠ 0) else x.edge) ∧
        y.watched.val = (if sl.getLsbD 7 then w.toNat else x.watched.val) ∧
        y.held = x.held ∧ y.filtered = x.filtered ∧ y.previous = x.previous ∧ y.output = x.output ∧
        (y.restart = true ↔ x.restart = true ∨ { y with restart := x.restart } ≠ x) ∧
        Replied q tag (if (sl.getLsbD 0 ∧ 1 < en.toNat) ∨ (sl.getLsbD 6 ∧ 1 < ed.toNat) then .adjusted else .ok) (cellEntry y) 0 s t
      else t = { s with ports := t.ports } ∧ Replied q tag .notAllowed (cellEntry x) 0 s t) ∧
  ∀ (s : State) (q : PortIx) (tag : Byte) (g : PinIx) (sh sl sel pol : Byte), s.inReset = false →
    (sl.getLsbD 0 = true → sel.toNat < 10) → (sl.getLsbD 1 = true → pol.toNat < 2) →
    ∃ t, exec (.setGpo q tag [byte g.val, sh, sl, sel, pol]) s = .next t ∧
      if s.ports[q].role = .engineering then
        t = { s with gpos := t.gpos, ports := t.ports } ∧ SameBut g s.gpos t.gpos ∧
        (∀ c : CellIx, t.gpos[g].selection = .cell c ↔
          if sl.getLsbD 0 then sel.toNat = c.val else s.gpos[g].selection = .cell c) ∧
        (∀ b : Bool, t.gpos[g].selection = .const b ↔
          if sl.getLsbD 0 then sel.toNat = 8 + b.toNat else s.gpos[g].selection = .const b) ∧
        t.gpos[g].activeLow = (if sl.getLsbD 1 then decide (pol = 1) else s.gpos[g].activeLow) ∧
        t.gpos[g].active =
          (if sl.getLsbD 0 then match t.gpos[g].selection with | .cell c => s.cells[c].output | .const b => b
            else s.gpos[g].active) ∧
        Replied q tag .ok [gpoByte t.gpos[g]] 0 s t
      else t = { s with ports := t.ports } ∧ Replied q tag .notAllowed [gpoByte s.gpos[g]] 0 s t

/-- LC_PERIOD_END samples the pins, raises GPI where a filtered value changes, and evaluates every cell on the signals as they
then stand: a pending restart sets the output to 0, an enabled cell passes the entry of its truth table through its filter and
edge stage, another cell stands; the 46 signals are those of R167, from the publishing blocks as they stand; and each change of
an output is delivered to every key, player, delay and pin that selects the cell. A delivery to a GPO pin that selects the cell
moves the pin, and one to another pin changes nothing (R166 to R175; logs 8 and 12 for the record of deliveries). -/
def Obligations.PeriodEndEvaluatesTheCells : Prop :=
  (∀ (s : State) (pins : Vector Bool 8), s.inReset = false → ∃ t, exec (.lcPeriodEnd pins) s = .next t ∧
    t = { s with gpis := t.gpis, cells := t.cells, handed := t.handed, ports := t.ports } ∧
    (∀ n : PinIx, t.gpis[n] = (pins[n] :: s.gpis[n]).take 3) ∧
    Raised (flagIf (decide (∃ n : PinIx, filtered t.gpis[n] ≠ filtered s.gpis[n])) .gpi) s t ∧
    (∀ c : CellIx,
      let x := s.cells[c]
      let now : State := { s with gpis := t.gpis }
      let result : Bool := x.table.getLsbD
        ((if signal now c x.in2 then 4 else 0) + (if signal now c x.in1 then 2 else 0) + (if signal now c x.in0 then 1 else 0))
      let f : Bool := match x.filter with
        | .none => result
        | .sync => x.held
        | .stable => if result = x.held then result else x.filtered
      t.cells[c] =
        if x.restart = true then
          { x with held := x.enable && result, filtered := false, previous := false, output := false, restart := false }
        else if x.enable = true then
          { x with held := result, filtered := f, previous := f, output := if x.edge then f && !x.previous else f }
        else x) ∧
    ∃ sent, t.handed = s.handed ++ sent ∧ ∀ i : Instr, i ∈ sent ↔ ∃ c : CellIx, t.cells[c].output ≠ s.cells[c].output ∧
      ((∃ k : KeyIx, s.keys[k].trigger = some c ∧ i = .keyTrigger k c t.cells[c].output) ∨
        (∃ j : PlayerIx, s.players[j].trigger = some c ∧ i = .playerTrigger j c t.cells[c].output) ∨
        (∃ d : Programme, s.delays[d].trigger = some c ∧ i = .delayTrigger d c t.cells[c].output) ∨
        (∃ g : PinIx, s.gpos[g].selection = .cell c ∧ i = .gpoDelivery g c t.cells[c].output))) ∧
  (∀ (s : State) (c : CellIx),
    let on : Nat → Bool := fun n => if h : n < 46 then signal s c ⟨n, h⟩ else false
    on 0 = false ∧ on 1 = s.cells[c].output ∧ on 2 = s.cells[c + 1].output ∧
    (∀ g : PinIx, on (3 + g.val) = filtered s.gpis[g]) ∧
    (on 11 = true ↔ ∃ p : PartyIx, s.parties[p].state = .ringing) ∧
    (∀ k : Programme, on (12 + k.val) = true ↔ ∃ p : PartyIx, s.parties[p].state = .ready ∧ s.parties[p].programme = k) ∧
    (∀ k : Programme, on (14 + k.val) = true ↔ ∃ p : PartyIx, s.parties[p].state = .air ∧ s.parties[p].programme = k) ∧
    (on 16 = true ↔ ∃ p : PartyIx, s.parties[p].state = .screen) ∧
    (on 17 = true ↔ s.parties[s.cells[c].watched].state = .air) ∧
    (on 18 = true ↔ s.parties[s.cells[c].watched].state = .hold ∨ s.parties[s.cells[c].watched].state = .ready) ∧
    (∀ k : KeyIx, on (19 + k.val) = s.keys[k].active) ∧
    (∀ k : KeyIx, on (23 + k.val) = true ↔ ∃ p : PartyIx, s.foldBacks[p].inService = some k) ∧
    (∀ j : PlayerIx, on (27 + j.val) = true ↔ s.players[j].state = .playing ∨ s.players[j].state = .stopping) ∧
    (∀ n : SupIx, on (31 + n.val) = s.sups[n].alarm) ∧
    (∀ k : Programme, on (39 + k.val) = true ↔ s.delays[k].state ≠ .bypass) ∧
    (∀ k : Programme, on (41 + k.val) = true ↔ s.delays[k].state = .dumpOut ∨ s.delays[k].state = .dumpIn) ∧
    (∀ k : Programme, on (43 + k.val) = true ↔ s.delays[k].state = .atTarget) ∧
    (on 45 = true ↔ s.clock.lock = .freeRun)) ∧
  ∀ (s : State) (g : PinIx) (c : CellIx) (out : Bool), s.inReset = false →
    ∃ t, exec (.gpoDelivery g c out) s = .next t ∧
      t = { s with gpos := t.gpos, handed := s.handed.erase (.gpoDelivery g c out) } ∧ SameBut g s.gpos t.gpos ∧
      t.gpos[g] = (if s.gpos[g].selection = .cell c then { s.gpos[g] with active := out } else s.gpos[g]) ∧
      pinLevel t.gpos[g] = (t.gpos[g].active ^^ t.gpos[g].activeLow)

/-! ## Reference clock (chapter 11) -/

/-- A judgement with 31 to 33 edges is valid and moves the lock state by its table: FREE_RUN to RELOCK with a settle count of
2^s, RELOCK down to LOCKED; a loss moves RELOCK and LOCKED to FREE_RUN; CLOCK is raised at each entry into LOCKED and into
FREE_RUN. A loss at the end of the final RELOCK period owes a fade-in to the next, and the period after an entry into LOCKED is
marked as the first. REALIGN is the judgement that enters LOCKED, and changes nothing elsewhere (log 10) (R194, R195). -/
def Obligations.JudgementMovesTheLockState : Prop :=
  ∀ (s : State) (n : Nat), s.inReset = false →
    (∃ t, exec (.judgement n) s = .next t ∧ t = { s with clock := t.clock, ports := t.ports } ∧
      (let valid : Bool := decide (31 ≤ n ∧ n ≤ 33)
       let stood : Clock := { s.clock with fadeInOwed := false, firstLocked := false }
       t.clock = match s.clock.lock, valid with
        | .freeRun, false => stood
        | .freeRun, true => { stood with lock := .relock, settle := 2 ^ s.clock.exponent }
        | .relock, true =>
          if 1 < s.clock.settle then { stood with settle := s.clock.settle - 1 }
          else { stood with lock := .locked, settle := 0, firstLocked := true }
        | .relock, false => { stood with lock := .freeRun, settle := 0, fadeInOwed := decide (s.clock.settle ≤ 1) }
        | .locked, true => stood
        | .locked, false => { stood with lock := .freeRun }) ∧
      Raised (flagIf (decide (t.clock.lock ≠ s.clock.lock ∧ t.clock.lock ≠ .relock)) .clock) s t) ∧
    ∃ t, exec (.realign n) s = .next t ∧
      if s.clock.lock = .relock ∧ s.clock.settle ≤ 1 ∧ 31 ≤ n ∧ n ≤ 33 then exec (.judgement n) s = .next t else t = s

/-- SET CLOCK carries one byte; from ENGINEERING a value of 8 to 12 is stored as sent and answered OK, one below as 8 and one
above as 12, adjusted, with s and the lock state in the reply; a settle count running keeps its value and the next entry into
RELOCK uses the new s; another role is NOT_ALLOWED and another length ILLEGAL, each without payload (R196). -/
def Obligations.SetClockStoresTheExponent : Prop :=
  (∀ (s : State) (q : PortIx) (tag x : Byte), s.inReset = false →
    ∃ t, exec (.setClock q tag [x]) s = .next t ∧
      if s.ports[q].role = .engineering then
        t = { s with clock := { s.clock with exponent := max 8 (min 12 x.toNat) }, ports := t.ports } ∧
        Replied q tag (if 8 ≤ x.toNat ∧ x.toNat ≤ 12 then .ok else .adjusted)
          [if x.toNat < 8 then 8 else if 12 < x.toNat then 12 else x,
            match s.clock.lock with | .freeRun => 0 | .relock => 1 | .locked => 2] 0 s t
      else t = { s with ports := t.ports } ∧ Replied q tag .notAllowed [] 0 s t) ∧
  (∀ (s : State) (q : PortIx) (tag : Byte) (pl : List Byte), s.inReset = false → pl.length ≠ 1 →
    ∃ t, exec (.setClock q tag pl) s = .next t ∧ t = { s with ports := t.ports } ∧ Replied q tag .illegal [] 0 s t) ∧
  ∀ (s : State) (n : Nat), s.inReset = false → s.clock.lock = .freeRun → 31 ≤ n → n ≤ 33 →
    ∃ t, exec (.judgement n) s = .next t ∧ t.clock.lock = .relock ∧ t.clock.settle = 2 ^ s.clock.exponent

/-! ## Whole-machine rules -/

/-- A control port command that is refused or finds its condition met (any result but OK and ADJUSTED) stores nothing, raises no
event and changes nothing but the slot of its port (R184). -/
def Obligations.RefusedCommandsChangeNothing : Prop :=
  ∀ (c : Instr) (q : PortIx) (bytes : List Byte) (s t : State), encodeFrame c = some (q, bytes) → s.inReset = false →
    exec c s = .next t → t.ports[q].slot.result ≠ .ok → t.ports[q].slot.result ≠ .adjusted →
    t = { s with ports := t.ports } ∧ SameBut q s.ports t.ports ∧ t.ports[q] = { s.ports[q] with slot := t.ports[q].slot }

/-- A command whose payload has not its defined length, or carries an operand out of range, is answered ILLEGAL with no payload,
from every role, and changes nothing but its reply; the value of a setting that is not selected is not checked. A SET PARTY that
selects an undefined programme is answered ILLEGAL with the record of the party (R198 and the operand checks of R28, R94, R104,
R113, R122, R131, R138, R141, R156, R159, R162, R176 and R177). That a START, STOP or ABORT of wrong length is ILLEGAL is R143 to
R145; that its reply carries no payload, the clauses (.start, 1), (.stop, 1) and (.abort, 1), is the model's choice: R143 gives
the player's entry when the player number was in range and is silent on a payload of wrong length (DESIGN CHOICE, log 32). -/
def Obligations.WrongLengthsAndOperandsAreIllegal : Prop :=
  (∀ e ∈ ([(.setParty, fun v _ => 24 ≤ v 0 * 256 + v 1),
      (.key, fun v _ => 4 ≤ v 0 ∨ 3 ≤ v 1),
      (.setKey, fun v sel => 4 ≤ v 0 ∨ (sel 2 0 ∧ 16 ≤ v 3) ∨ (sel 2 5 ∧ 9 ≤ v 10)),
      (.setDelay, fun v sel => (v 0 ≠ 1 ∧ v 0 ≠ 2) ∨ (sel 2 5 ∧ 2 ≤ v 10) ∨ (sel 2 6 ∧ 9 ≤ v 11)),
      (.dump, fun v _ => v 0 ≠ 1 ∧ v 0 ≠ 2),
      (.setMemorySize, fun v _ => 3 ≤ v 0),
      (.setPlayer, fun v sel => 4 ≤ v 0 ∨ (sel 2 2 ∧ 2 ≤ v 5) ∨ (sel 2 3 ∧ 9 ≤ v 6)),
      (.setMetering, fun v sel => sel 1 0 ∧ 3 ≤ v 2),
      (.setSupervisor, fun v sel => 8 ≤ v 0 ∨ (sel 2 2 ∧ 2 ≤ v 5)),
      (.clearClips, fun v _ => 71 ≤ v 0 ∨ v 1 = 0 ∨ 72 ≤ v 0 + v 1),
      (.setCell, fun v sel => 8 ≤ v 0 ∨ (sel 2 1 ∧ 46 ≤ v 4) ∨ (sel 2 2 ∧ 46 ≤ v 5) ∨ (sel 2 3 ∧ 46 ≤ v 6) ∨
        (sel 2 5 ∧ 3 ≤ v 8) ∨ (sel 2 7 ∧ 24 ≤ v 10)),
      (.setGpo, fun v sel => 8 ≤ v 0 ∨ (sel 2 0 ∧ 10 ≤ v 3) ∨ (sel 2 1 ∧ 2 ≤ v 4)),
      (.writePitches, fun v _ => 32 ≤ v 0)] :
      List ((PortIx → Byte → List Byte → Instr) × ((Nat → Nat) → (Nat → Nat → Prop) → Prop))),
    ∀ (s : State) (q : PortIx) (tag : Byte) (pl : List Byte), s.inReset = false →
      e.2 (fun i => (pl.getD i 0).toNat) (fun i n => (pl.getD i 0).getLsbD n = true) →
      ∃ t, exec (e.1 q tag pl) s = .next t ∧ t = { s with ports := t.ports } ∧ Replied q tag .illegal [] 0 s t) ∧
  (∀ (s : State) (q : PortIx) (tag : Byte) (p : PartyIx) (sh sl sg rg gr fb tm k : Byte), s.inReset = false →
    sl.getLsbD 5 = true → k ≠ 1 → k ≠ 2 →
    ∃ t, exec (.setParty q tag [0, byte p.val, sh, sl, sg, rg, gr, fb, tm, k]) s = .next t ∧ t = { s with ports := t.ports } ∧
      Replied q tag .illegal (partyBody s p) 0 s t) ∧
  (∀ e ∈ ([(.writeSteps, 60), (.writePitches, 32)] : List ((PortIx → Byte → List Byte → Instr) × Nat)),
    ∀ (s : State) (q : PortIx) (tag : Byte) (pl : List Byte), s.inReset = false →
      (∀ n, 1 ≤ n → n ≤ e.2 → pl.length ≠ 1 + 2 * n) →
      ∃ t, exec (e.1 q tag pl) s = .next t ∧ t = { s with ports := t.ports } ∧ Replied q tag .illegal [] 0 s t) ∧
  ∀ e ∈ ([(.setEventMask, 2), (.readParty, 2), (.setParty, 10), (.answer, 4), (.screen, 4), (.hold, 4), (.ready, 4),
      (.privateTalk, 4), (.take, 4), (.drop, 4), (.setSend, 6), (.setMonitor, 1), (.key, 2), (.setKey, 11), (.readToneMemory, 3),
      (.setPlayer, 7), (.start, 1), (.stop, 1), (.abort, 1), (.setToneRoute, 5), (.setDelay, 12), (.dump, 1),
      (.setMemorySize, 1), (.setMetering, 5), (.setSupervisor, 9), (.clearClips, 2), (.setCell, 11), (.setGpo, 5),
      (.setLineTiming, 1), (.setClock, 1)] : List ((PortIx → Byte → List Byte → Instr) × Nat)),
    ∀ (s : State) (q : PortIx) (tag : Byte) (pl : List Byte), s.inReset = false → pl.length ≠ e.2 →
      ∃ t, exec (e.1 q tag pl) s = .next t ∧ t = { s with ports := t.ports } ∧ Replied q tag .illegal [] 0 s t

/-! ## Invariants -/

/-- Every step keeps every party in a state of its kind with stored gain codes, a mark only in HOLD or READY while the delay of
its programme is not in BYPASS, and every request list without repeats, holding its key in service, and empty without a
connection (R5, R13, R96, R101 to R103, R129). Every step also keeps the law of R97: while a party has a key in service, no key
in its list has a strictly higher priority. -/
def Obligations.StepsKeepThePartiesAndTheirLists : Prop :=
  ∀ s t : State, PartiesOk s → FoldBacksOk s → step s = .next t →
    PartiesOk t ∧ FoldBacksOk t ∧ (ServicesOk s → ServicesOk t)

/-- Each delay's length stays within 0 to L_max of the memory mode and 0 in BYPASS, with the other values of its context in
range, the SRAM keeps its canonical form within the words of the port, and every sample still to be read was written since
RESET by the delay itself, and a memory mode not yet in use was stored with both delays in BYPASS: every step keeps it, from
every such state. So a frame never delivers a word that was not written, and no frame, an insert frame neither, makes a read
access to a word but one that the delay itself wrote since RESET (R112 to R114, R116; the record of writers is the model's, log
18). That a delay with the trigger cell none holds the trigger
output 0, DelayOk.trigger, is so at RESET by R114 and after a SET DELAY by the model's choice (DESIGN CHOICE, log 23). -/
def Obligations.StepsKeepTheDelaysInRange : Prop :=
  (∀ s t : State, DelaysOk s → MemoryOk s → ModeOk s → HeldOk s → step s = .next t →
    DelaysOk t ∧ MemoryOk t ∧ ModeOk t ∧ HeldOk t ∧
    ∀ k : Programme, t.delays[k].length ≤ t.memSize.lMax ∧ (t.delays[k].state = .bypass → t.delays[k].length = 0)) ∧
  ∀ (s : State) (m : MemSize) (k : Programme) (i : FrameIx) (x : Sample), DelaysOk s → ModeOk s → HeldOk s →
    m = s.memInUse ∨ m = s.memSize →
    (readCount s.delays[k] i ≠ s.delays[k].w → inserts s.delays[k] i = false →
      sramRead (sramAfter m s k x) (wordAddr m k (readCount s.delays[k] i)) = some (sampleRead m s k x i)) ∧
    ∀ a : BitVec 22, MemoryOk s → .read a ∈ accesses m s k x i →
      (sramRead (sramAfter m s k x) a.toNat).isSome = true ∧ sramRead (writersAfter m s k) a.toNat = some k

/-- Every step keeps the active flag of every key as its latches and trigger output give it, the cells that are off at 0, the pins
at a constant there, and the histories, counts, clock and reply slots within their ranges (R35, R93, R166, R173, R175, R183,
R194). -/
def Obligations.StepsKeepKeysLogicLinesAndClock : Prop :=
  ∀ s t : State, (KeysOk s ∧ LogicOk s ∧ LinesOk s ∧ ClockOk s.clock ∧ SlotsOk s) → step s = .next t →
    KeysOk t ∧ LogicOk t ∧ LinesOk t ∧ ClockOk t.clock ∧ SlotsOk t

/-- Every step keeps the tone memory, players and routes in range, an IDLE player without a play, the meters and supervisors in
range, each run counter within 0 to its K, and the flags of points that get no reports clear (R136, R137, R140, R153, R158,
R160). -/
def Obligations.StepsKeepTonesAndMetersInRange : Prop :=
  ∀ s t : State, TonesOk s → MetersOk s → step s = .next t → TonesOk t ∧ MetersOk t

/-- Every step keeps every coefficient, of sends, sources, returns, tones, ducks and talkback, within that of gain code 0, every
bus-derived feed of a party without the party itself, and at most one bus with a term of a party at the end of a period (R51,
R54, R60, R81). -/
def Obligations.StepsKeepTheMix : Prop :=
  ∀ s t : State, MixOk s → step s = .next t → MixOk t

/-- Every condition that the steps keep holds at State.reset. -/
def Obligations.ResetMeetsEveryCondition : Prop :=
  PartiesOk State.reset ∧ FoldBacksOk State.reset ∧ ServicesOk State.reset ∧ KeysOk State.reset ∧ DelaysOk State.reset ∧
  MemoryOk State.reset ∧ ModeOk State.reset ∧ HeldOk State.reset ∧ TonesOk State.reset ∧ MetersOk State.reset ∧
  LinesOk State.reset ∧ LogicOk State.reset ∧ ClockOk State.reset.clock ∧ SlotsOk State.reset ∧ MixOk State.reset

end
end

