-- ==== Sys2Proof/Laws/State.lean ====
section
/-! SUPPORT. One lemma for each field that each update of the state leaves alone, so that no later proof unfolds an update. -/

namespace Sys2Proof.Machine

variable (s : State)

/-! ## raise -/

@[simp] theorem raise_inReset (e : Event) : (raise e s).inReset = s.inReset := by simp only [raise]
@[simp] theorem raise_parties (e : Event) : (raise e s).parties = s.parties := by simp only [raise]
@[simp] theorem raise_lines (e : Event) : (raise e s).lines = s.lines := by simp only [raise]
@[simp] theorem raise_links (e : Event) : (raise e s).links = s.links := by simp only [raise]
@[simp] theorem raise_dropCode (e : Event) : (raise e s).dropCode = s.dropCode := by simp only [raise]
@[simp] theorem raise_mix (e : Event) : (raise e s).mix = s.mix := by simp only [raise]
@[simp] theorem raise_partyMix (e : Event) : (raise e s).partyMix = s.partyMix := by simp only [raise]
@[simp] theorem raise_formed (e : Event) : (raise e s).formed = s.formed := by simp only [raise]
@[simp] theorem raise_formedBefore (e : Event) : (raise e s).formedBefore = s.formedBefore := by simp only [raise]
@[simp] theorem raise_sent (e : Event) : (raise e s).sent = s.sent := by simp only [raise]
@[simp] theorem raise_keys (e : Event) : (raise e s).keys = s.keys := by simp only [raise]
@[simp] theorem raise_foldBacks (e : Event) : (raise e s).foldBacks = s.foldBacks := by simp only [raise]
@[simp] theorem raise_memSize (e : Event) : (raise e s).memSize = s.memSize := by simp only [raise]
@[simp] theorem raise_memInUse (e : Event) : (raise e s).memInUse = s.memInUse := by simp only [raise]
@[simp] theorem raise_delays (e : Event) : (raise e s).delays = s.delays := by simp only [raise]
@[simp] theorem raise_sram (e : Event) : (raise e s).sram = s.sram := by simp only [raise]
@[simp] theorem raise_writers (e : Event) : (raise e s).writers = s.writers := by simp only [raise]
@[simp] theorem raise_memPort (e : Event) : (raise e s).memPort = s.memPort := by simp only [raise]
@[simp] theorem raise_steps (e : Event) : (raise e s).steps = s.steps := by simp only [raise]
@[simp] theorem raise_pitches (e : Event) : (raise e s).pitches = s.pitches := by simp only [raise]
@[simp] theorem raise_players (e : Event) : (raise e s).players = s.players := by simp only [raise]
@[simp] theorem raise_routes (e : Event) : (raise e s).routes = s.routes := by simp only [raise]
@[simp] theorem raise_meter (e : Event) : (raise e s).meter = s.meter := by simp only [raise]
@[simp] theorem raise_points (e : Event) : (raise e s).points = s.points := by simp only [raise]
@[simp] theorem raise_sups (e : Event) : (raise e s).sups = s.sups := by simp only [raise]
@[simp] theorem raise_gpis (e : Event) : (raise e s).gpis = s.gpis := by simp only [raise]
@[simp] theorem raise_cells (e : Event) : (raise e s).cells = s.cells := by simp only [raise]
@[simp] theorem raise_gpos (e : Event) : (raise e s).gpos = s.gpos := by simp only [raise]
@[simp] theorem raise_clock (e : Event) : (raise e s).clock = s.clock := by simp only [raise]
@[simp] theorem raise_handed (e : Event) : (raise e s).handed = s.handed := by simp only [raise]
@[simp] theorem raise_pending (e : Event) : (raise e s).pending = s.pending := by simp only [raise]

/-! ## raiseIf -/

@[simp] theorem raiseIf_inReset (b : Bool) (e : Event) : (raiseIf b e s).inReset = s.inReset := by cases b <;> rfl
@[simp] theorem raiseIf_parties (b : Bool) (e : Event) : (raiseIf b e s).parties = s.parties := by cases b <;> rfl
@[simp] theorem raiseIf_lines (b : Bool) (e : Event) : (raiseIf b e s).lines = s.lines := by cases b <;> rfl
@[simp] theorem raiseIf_links (b : Bool) (e : Event) : (raiseIf b e s).links = s.links := by cases b <;> rfl
@[simp] theorem raiseIf_dropCode (b : Bool) (e : Event) : (raiseIf b e s).dropCode = s.dropCode := by cases b <;> rfl
@[simp] theorem raiseIf_mix (b : Bool) (e : Event) : (raiseIf b e s).mix = s.mix := by cases b <;> rfl
@[simp] theorem raiseIf_partyMix (b : Bool) (e : Event) : (raiseIf b e s).partyMix = s.partyMix := by cases b <;> rfl
@[simp] theorem raiseIf_formed (b : Bool) (e : Event) : (raiseIf b e s).formed = s.formed := by cases b <;> rfl
@[simp] theorem raiseIf_formedBefore (b : Bool) (e : Event) : (raiseIf b e s).formedBefore = s.formedBefore := by cases b <;> rfl
@[simp] theorem raiseIf_sent (b : Bool) (e : Event) : (raiseIf b e s).sent = s.sent := by cases b <;> rfl
@[simp] theorem raiseIf_keys (b : Bool) (e : Event) : (raiseIf b e s).keys = s.keys := by cases b <;> rfl
@[simp] theorem raiseIf_foldBacks (b : Bool) (e : Event) : (raiseIf b e s).foldBacks = s.foldBacks := by cases b <;> rfl
@[simp] theorem raiseIf_memSize (b : Bool) (e : Event) : (raiseIf b e s).memSize = s.memSize := by cases b <;> rfl
@[simp] theorem raiseIf_memInUse (b : Bool) (e : Event) : (raiseIf b e s).memInUse = s.memInUse := by cases b <;> rfl
@[simp] theorem raiseIf_delays (b : Bool) (e : Event) : (raiseIf b e s).delays = s.delays := by cases b <;> rfl
@[simp] theorem raiseIf_sram (b : Bool) (e : Event) : (raiseIf b e s).sram = s.sram := by cases b <;> rfl
@[simp] theorem raiseIf_writers (b : Bool) (e : Event) : (raiseIf b e s).writers = s.writers := by cases b <;> rfl
@[simp] theorem raiseIf_memPort (b : Bool) (e : Event) : (raiseIf b e s).memPort = s.memPort := by cases b <;> rfl
@[simp] theorem raiseIf_steps (b : Bool) (e : Event) : (raiseIf b e s).steps = s.steps := by cases b <;> rfl
@[simp] theorem raiseIf_pitches (b : Bool) (e : Event) : (raiseIf b e s).pitches = s.pitches := by cases b <;> rfl
@[simp] theorem raiseIf_players (b : Bool) (e : Event) : (raiseIf b e s).players = s.players := by cases b <;> rfl
@[simp] theorem raiseIf_routes (b : Bool) (e : Event) : (raiseIf b e s).routes = s.routes := by cases b <;> rfl
@[simp] theorem raiseIf_meter (b : Bool) (e : Event) : (raiseIf b e s).meter = s.meter := by cases b <;> rfl
@[simp] theorem raiseIf_points (b : Bool) (e : Event) : (raiseIf b e s).points = s.points := by cases b <;> rfl
@[simp] theorem raiseIf_sups (b : Bool) (e : Event) : (raiseIf b e s).sups = s.sups := by cases b <;> rfl
@[simp] theorem raiseIf_gpis (b : Bool) (e : Event) : (raiseIf b e s).gpis = s.gpis := by cases b <;> rfl
@[simp] theorem raiseIf_cells (b : Bool) (e : Event) : (raiseIf b e s).cells = s.cells := by cases b <;> rfl
@[simp] theorem raiseIf_gpos (b : Bool) (e : Event) : (raiseIf b e s).gpos = s.gpos := by cases b <;> rfl
@[simp] theorem raiseIf_clock (b : Bool) (e : Event) : (raiseIf b e s).clock = s.clock := by cases b <;> rfl
@[simp] theorem raiseIf_handed (b : Bool) (e : Event) : (raiseIf b e s).handed = s.handed := by cases b <;> rfl
@[simp] theorem raiseIf_pending (b : Bool) (e : Event) : (raiseIf b e s).pending = s.pending := by cases b <;> rfl

/-! ## reply -/

@[simp] theorem reply_inReset (q : PortIx) (tag : Byte) (r : Result) (body : List Byte) : (reply q tag r body s).inReset = s.inReset := rfl
@[simp] theorem reply_parties (q : PortIx) (tag : Byte) (r : Result) (body : List Byte) : (reply q tag r body s).parties = s.parties := rfl
@[simp] theorem reply_lines (q : PortIx) (tag : Byte) (r : Result) (body : List Byte) : (reply q tag r body s).lines = s.lines := rfl
@[simp] theorem reply_links (q : PortIx) (tag : Byte) (r : Result) (body : List Byte) : (reply q tag r body s).links = s.links := rfl
@[simp] theorem reply_dropCode (q : PortIx) (tag : Byte) (r : Result) (body : List Byte) : (reply q tag r body s).dropCode = s.dropCode := rfl
@[simp] theorem reply_mix (q : PortIx) (tag : Byte) (r : Result) (body : List Byte) : (reply q tag r body s).mix = s.mix := rfl
@[simp] theorem reply_partyMix (q : PortIx) (tag : Byte) (r : Result) (body : List Byte) : (reply q tag r body s).partyMix = s.partyMix := rfl
@[simp] theorem reply_formed (q : PortIx) (tag : Byte) (r : Result) (body : List Byte) : (reply q tag r body s).formed = s.formed := rfl
@[simp] theorem reply_formedBefore (q : PortIx) (tag : Byte) (r : Result) (body : List Byte) : (reply q tag r body s).formedBefore = s.formedBefore := rfl
@[simp] theorem reply_sent (q : PortIx) (tag : Byte) (r : Result) (body : List Byte) : (reply q tag r body s).sent = s.sent := rfl
@[simp] theorem reply_keys (q : PortIx) (tag : Byte) (r : Result) (body : List Byte) : (reply q tag r body s).keys = s.keys := rfl
@[simp] theorem reply_foldBacks (q : PortIx) (tag : Byte) (r : Result) (body : List Byte) : (reply q tag r body s).foldBacks = s.foldBacks := rfl
@[simp] theorem reply_memSize (q : PortIx) (tag : Byte) (r : Result) (body : List Byte) : (reply q tag r body s).memSize = s.memSize := rfl
@[simp] theorem reply_memInUse (q : PortIx) (tag : Byte) (r : Result) (body : List Byte) : (reply q tag r body s).memInUse = s.memInUse := rfl
@[simp] theorem reply_delays (q : PortIx) (tag : Byte) (r : Result) (body : List Byte) : (reply q tag r body s).delays = s.delays := rfl
@[simp] theorem reply_sram (q : PortIx) (tag : Byte) (r : Result) (body : List Byte) : (reply q tag r body s).sram = s.sram := rfl
@[simp] theorem reply_writers (q : PortIx) (tag : Byte) (r : Result) (body : List Byte) : (reply q tag r body s).writers = s.writers := rfl
@[simp] theorem reply_memPort (q : PortIx) (tag : Byte) (r : Result) (body : List Byte) : (reply q tag r body s).memPort = s.memPort := rfl
@[simp] theorem reply_steps (q : PortIx) (tag : Byte) (r : Result) (body : List Byte) : (reply q tag r body s).steps = s.steps := rfl
@[simp] theorem reply_pitches (q : PortIx) (tag : Byte) (r : Result) (body : List Byte) : (reply q tag r body s).pitches = s.pitches := rfl
@[simp] theorem reply_players (q : PortIx) (tag : Byte) (r : Result) (body : List Byte) : (reply q tag r body s).players = s.players := rfl
@[simp] theorem reply_routes (q : PortIx) (tag : Byte) (r : Result) (body : List Byte) : (reply q tag r body s).routes = s.routes := rfl
@[simp] theorem reply_meter (q : PortIx) (tag : Byte) (r : Result) (body : List Byte) : (reply q tag r body s).meter = s.meter := rfl
@[simp] theorem reply_points (q : PortIx) (tag : Byte) (r : Result) (body : List Byte) : (reply q tag r body s).points = s.points := rfl
@[simp] theorem reply_sups (q : PortIx) (tag : Byte) (r : Result) (body : List Byte) : (reply q tag r body s).sups = s.sups := rfl
@[simp] theorem reply_gpis (q : PortIx) (tag : Byte) (r : Result) (body : List Byte) : (reply q tag r body s).gpis = s.gpis := rfl
@[simp] theorem reply_cells (q : PortIx) (tag : Byte) (r : Result) (body : List Byte) : (reply q tag r body s).cells = s.cells := rfl
@[simp] theorem reply_gpos (q : PortIx) (tag : Byte) (r : Result) (body : List Byte) : (reply q tag r body s).gpos = s.gpos := rfl
@[simp] theorem reply_clock (q : PortIx) (tag : Byte) (r : Result) (body : List Byte) : (reply q tag r body s).clock = s.clock := rfl
@[simp] theorem reply_handed (q : PortIx) (tag : Byte) (r : Result) (body : List Byte) : (reply q tag r body s).handed = s.handed := rfl
@[simp] theorem reply_pending (q : PortIx) (tag : Byte) (r : Result) (body : List Byte) : (reply q tag r body s).pending = s.pending := rfl

/-! ## hand -/

@[simp] theorem hand_inReset (l : List Instr) : (hand l s).inReset = s.inReset := rfl
@[simp] theorem hand_parties (l : List Instr) : (hand l s).parties = s.parties := rfl
@[simp] theorem hand_lines (l : List Instr) : (hand l s).lines = s.lines := rfl
@[simp] theorem hand_links (l : List Instr) : (hand l s).links = s.links := rfl
@[simp] theorem hand_dropCode (l : List Instr) : (hand l s).dropCode = s.dropCode := rfl
@[simp] theorem hand_mix (l : List Instr) : (hand l s).mix = s.mix := rfl
@[simp] theorem hand_partyMix (l : List Instr) : (hand l s).partyMix = s.partyMix := rfl
@[simp] theorem hand_formed (l : List Instr) : (hand l s).formed = s.formed := rfl
@[simp] theorem hand_formedBefore (l : List Instr) : (hand l s).formedBefore = s.formedBefore := rfl
@[simp] theorem hand_sent (l : List Instr) : (hand l s).sent = s.sent := rfl
@[simp] theorem hand_keys (l : List Instr) : (hand l s).keys = s.keys := rfl
@[simp] theorem hand_foldBacks (l : List Instr) : (hand l s).foldBacks = s.foldBacks := rfl
@[simp] theorem hand_memSize (l : List Instr) : (hand l s).memSize = s.memSize := rfl
@[simp] theorem hand_memInUse (l : List Instr) : (hand l s).memInUse = s.memInUse := rfl
@[simp] theorem hand_delays (l : List Instr) : (hand l s).delays = s.delays := rfl
@[simp] theorem hand_sram (l : List Instr) : (hand l s).sram = s.sram := rfl
@[simp] theorem hand_writers (l : List Instr) : (hand l s).writers = s.writers := rfl
@[simp] theorem hand_memPort (l : List Instr) : (hand l s).memPort = s.memPort := rfl
@[simp] theorem hand_steps (l : List Instr) : (hand l s).steps = s.steps := rfl
@[simp] theorem hand_pitches (l : List Instr) : (hand l s).pitches = s.pitches := rfl
@[simp] theorem hand_players (l : List Instr) : (hand l s).players = s.players := rfl
@[simp] theorem hand_routes (l : List Instr) : (hand l s).routes = s.routes := rfl
@[simp] theorem hand_meter (l : List Instr) : (hand l s).meter = s.meter := rfl
@[simp] theorem hand_points (l : List Instr) : (hand l s).points = s.points := rfl
@[simp] theorem hand_sups (l : List Instr) : (hand l s).sups = s.sups := rfl
@[simp] theorem hand_gpis (l : List Instr) : (hand l s).gpis = s.gpis := rfl
@[simp] theorem hand_cells (l : List Instr) : (hand l s).cells = s.cells := rfl
@[simp] theorem hand_gpos (l : List Instr) : (hand l s).gpos = s.gpos := rfl
@[simp] theorem hand_ports (l : List Instr) : (hand l s).ports = s.ports := rfl
@[simp] theorem hand_clock (l : List Instr) : (hand l s).clock = s.clock := rfl
@[simp] theorem hand_pending (l : List Instr) : (hand l s).pending = s.pending := rfl

/-! ## took -/

@[simp] theorem took_inReset (i : Instr) : (took i s).inReset = s.inReset := rfl
@[simp] theorem took_parties (i : Instr) : (took i s).parties = s.parties := rfl
@[simp] theorem took_lines (i : Instr) : (took i s).lines = s.lines := rfl
@[simp] theorem took_links (i : Instr) : (took i s).links = s.links := rfl
@[simp] theorem took_dropCode (i : Instr) : (took i s).dropCode = s.dropCode := rfl
@[simp] theorem took_mix (i : Instr) : (took i s).mix = s.mix := rfl
@[simp] theorem took_partyMix (i : Instr) : (took i s).partyMix = s.partyMix := rfl
@[simp] theorem took_formed (i : Instr) : (took i s).formed = s.formed := rfl
@[simp] theorem took_formedBefore (i : Instr) : (took i s).formedBefore = s.formedBefore := rfl
@[simp] theorem took_sent (i : Instr) : (took i s).sent = s.sent := rfl
@[simp] theorem took_keys (i : Instr) : (took i s).keys = s.keys := rfl
@[simp] theorem took_foldBacks (i : Instr) : (took i s).foldBacks = s.foldBacks := rfl
@[simp] theorem took_memSize (i : Instr) : (took i s).memSize = s.memSize := rfl
@[simp] theorem took_memInUse (i : Instr) : (took i s).memInUse = s.memInUse := rfl
@[simp] theorem took_delays (i : Instr) : (took i s).delays = s.delays := rfl
@[simp] theorem took_sram (i : Instr) : (took i s).sram = s.sram := rfl
@[simp] theorem took_writers (i : Instr) : (took i s).writers = s.writers := rfl
@[simp] theorem took_memPort (i : Instr) : (took i s).memPort = s.memPort := rfl
@[simp] theorem took_steps (i : Instr) : (took i s).steps = s.steps := rfl
@[simp] theorem took_pitches (i : Instr) : (took i s).pitches = s.pitches := rfl
@[simp] theorem took_players (i : Instr) : (took i s).players = s.players := rfl
@[simp] theorem took_routes (i : Instr) : (took i s).routes = s.routes := rfl
@[simp] theorem took_meter (i : Instr) : (took i s).meter = s.meter := rfl
@[simp] theorem took_points (i : Instr) : (took i s).points = s.points := rfl
@[simp] theorem took_sups (i : Instr) : (took i s).sups = s.sups := rfl
@[simp] theorem took_gpis (i : Instr) : (took i s).gpis = s.gpis := rfl
@[simp] theorem took_cells (i : Instr) : (took i s).cells = s.cells := rfl
@[simp] theorem took_gpos (i : Instr) : (took i s).gpos = s.gpos := rfl
@[simp] theorem took_ports (i : Instr) : (took i s).ports = s.ports := rfl
@[simp] theorem took_clock (i : Instr) : (took i s).clock = s.clock := rfl
@[simp] theorem took_pending (i : Instr) : (took i s).pending = s.pending := rfl

/-! ## onLine -/

@[simp] theorem onLine_inReset (p : PartyIx) (f : LineCtx → LineCtx) : (onLine p f s).inReset = s.inReset := by unfold onLine; split <;> rfl
@[simp] theorem onLine_parties (p : PartyIx) (f : LineCtx → LineCtx) : (onLine p f s).parties = s.parties := by unfold onLine; split <;> rfl
@[simp] theorem onLine_links (p : PartyIx) (f : LineCtx → LineCtx) : (onLine p f s).links = s.links := by unfold onLine; split <;> rfl
@[simp] theorem onLine_dropCode (p : PartyIx) (f : LineCtx → LineCtx) : (onLine p f s).dropCode = s.dropCode := by unfold onLine; split <;> rfl
@[simp] theorem onLine_mix (p : PartyIx) (f : LineCtx → LineCtx) : (onLine p f s).mix = s.mix := by unfold onLine; split <;> rfl
@[simp] theorem onLine_partyMix (p : PartyIx) (f : LineCtx → LineCtx) : (onLine p f s).partyMix = s.partyMix := by unfold onLine; split <;> rfl
@[simp] theorem onLine_formed (p : PartyIx) (f : LineCtx → LineCtx) : (onLine p f s).formed = s.formed := by unfold onLine; split <;> rfl
@[simp] theorem onLine_formedBefore (p : PartyIx) (f : LineCtx → LineCtx) : (onLine p f s).formedBefore = s.formedBefore := by unfold onLine; split <;> rfl
@[simp] theorem onLine_sent (p : PartyIx) (f : LineCtx → LineCtx) : (onLine p f s).sent = s.sent := by unfold onLine; split <;> rfl
@[simp] theorem onLine_keys (p : PartyIx) (f : LineCtx → LineCtx) : (onLine p f s).keys = s.keys := by unfold onLine; split <;> rfl
@[simp] theorem onLine_foldBacks (p : PartyIx) (f : LineCtx → LineCtx) : (onLine p f s).foldBacks = s.foldBacks := by unfold onLine; split <;> rfl
@[simp] theorem onLine_memSize (p : PartyIx) (f : LineCtx → LineCtx) : (onLine p f s).memSize = s.memSize := by unfold onLine; split <;> rfl
@[simp] theorem onLine_memInUse (p : PartyIx) (f : LineCtx → LineCtx) : (onLine p f s).memInUse = s.memInUse := by unfold onLine; split <;> rfl
@[simp] theorem onLine_delays (p : PartyIx) (f : LineCtx → LineCtx) : (onLine p f s).delays = s.delays := by unfold onLine; split <;> rfl
@[simp] theorem onLine_sram (p : PartyIx) (f : LineCtx → LineCtx) : (onLine p f s).sram = s.sram := by unfold onLine; split <;> rfl
@[simp] theorem onLine_writers (p : PartyIx) (f : LineCtx → LineCtx) : (onLine p f s).writers = s.writers := by unfold onLine; split <;> rfl
@[simp] theorem onLine_memPort (p : PartyIx) (f : LineCtx → LineCtx) : (onLine p f s).memPort = s.memPort := by unfold onLine; split <;> rfl
@[simp] theorem onLine_steps (p : PartyIx) (f : LineCtx → LineCtx) : (onLine p f s).steps = s.steps := by unfold onLine; split <;> rfl
@[simp] theorem onLine_pitches (p : PartyIx) (f : LineCtx → LineCtx) : (onLine p f s).pitches = s.pitches := by unfold onLine; split <;> rfl
@[simp] theorem onLine_players (p : PartyIx) (f : LineCtx → LineCtx) : (onLine p f s).players = s.players := by unfold onLine; split <;> rfl
@[simp] theorem onLine_routes (p : PartyIx) (f : LineCtx → LineCtx) : (onLine p f s).routes = s.routes := by unfold onLine; split <;> rfl
@[simp] theorem onLine_meter (p : PartyIx) (f : LineCtx → LineCtx) : (onLine p f s).meter = s.meter := by unfold onLine; split <;> rfl
@[simp] theorem onLine_points (p : PartyIx) (f : LineCtx → LineCtx) : (onLine p f s).points = s.points := by unfold onLine; split <;> rfl
@[simp] theorem onLine_sups (p : PartyIx) (f : LineCtx → LineCtx) : (onLine p f s).sups = s.sups := by unfold onLine; split <;> rfl
@[simp] theorem onLine_gpis (p : PartyIx) (f : LineCtx → LineCtx) : (onLine p f s).gpis = s.gpis := by unfold onLine; split <;> rfl
@[simp] theorem onLine_cells (p : PartyIx) (f : LineCtx → LineCtx) : (onLine p f s).cells = s.cells := by unfold onLine; split <;> rfl
@[simp] theorem onLine_gpos (p : PartyIx) (f : LineCtx → LineCtx) : (onLine p f s).gpos = s.gpos := by unfold onLine; split <;> rfl
@[simp] theorem onLine_ports (p : PartyIx) (f : LineCtx → LineCtx) : (onLine p f s).ports = s.ports := by unfold onLine; split <;> rfl
@[simp] theorem onLine_clock (p : PartyIx) (f : LineCtx → LineCtx) : (onLine p f s).clock = s.clock := by unfold onLine; split <;> rfl
@[simp] theorem onLine_handed (p : PartyIx) (f : LineCtx → LineCtx) : (onLine p f s).handed = s.handed := by unfold onLine; split <;> rfl
@[simp] theorem onLine_pending (p : PartyIx) (f : LineCtx → LineCtx) : (onLine p f s).pending = s.pending := by unfold onLine; split <;> rfl

/-! ## changeState -/

@[simp] theorem changeState_inReset (p : PartyIx) (st : PState) (k : Programme) : (changeState p st k s).inReset = s.inReset := by simp only [changeState, raise_inReset, onLine_inReset]
@[simp] theorem changeState_links (p : PartyIx) (st : PState) (k : Programme) : (changeState p st k s).links = s.links := by simp only [changeState, raise_links, onLine_links]
@[simp] theorem changeState_dropCode (p : PartyIx) (st : PState) (k : Programme) : (changeState p st k s).dropCode = s.dropCode := by simp only [changeState, raise_dropCode, onLine_dropCode]
@[simp] theorem changeState_mix (p : PartyIx) (st : PState) (k : Programme) : (changeState p st k s).mix = s.mix := by simp only [changeState, raise_mix, onLine_mix]
@[simp] theorem changeState_partyMix (p : PartyIx) (st : PState) (k : Programme) : (changeState p st k s).partyMix = s.partyMix := by simp only [changeState, raise_partyMix, onLine_partyMix]
@[simp] theorem changeState_formed (p : PartyIx) (st : PState) (k : Programme) : (changeState p st k s).formed = s.formed := by simp only [changeState, raise_formed, onLine_formed]
@[simp] theorem changeState_formedBefore (p : PartyIx) (st : PState) (k : Programme) : (changeState p st k s).formedBefore = s.formedBefore := by simp only [changeState, raise_formedBefore, onLine_formedBefore]
@[simp] theorem changeState_sent (p : PartyIx) (st : PState) (k : Programme) : (changeState p st k s).sent = s.sent := by simp only [changeState, raise_sent, onLine_sent]
@[simp] theorem changeState_keys (p : PartyIx) (st : PState) (k : Programme) : (changeState p st k s).keys = s.keys := by simp only [changeState, raise_keys, onLine_keys]
@[simp] theorem changeState_memSize (p : PartyIx) (st : PState) (k : Programme) : (changeState p st k s).memSize = s.memSize := by simp only [changeState, raise_memSize, onLine_memSize]
@[simp] theorem changeState_memInUse (p : PartyIx) (st : PState) (k : Programme) : (changeState p st k s).memInUse = s.memInUse := by simp only [changeState, raise_memInUse, onLine_memInUse]
@[simp] theorem changeState_delays (p : PartyIx) (st : PState) (k : Programme) : (changeState p st k s).delays = s.delays := by simp only [changeState, raise_delays, onLine_delays]
@[simp] theorem changeState_sram (p : PartyIx) (st : PState) (k : Programme) : (changeState p st k s).sram = s.sram := by simp only [changeState, raise_sram, onLine_sram]
@[simp] theorem changeState_writers (p : PartyIx) (st : PState) (k : Programme) : (changeState p st k s).writers = s.writers := by simp only [changeState, raise_writers, onLine_writers]
@[simp] theorem changeState_memPort (p : PartyIx) (st : PState) (k : Programme) : (changeState p st k s).memPort = s.memPort := by simp only [changeState, raise_memPort, onLine_memPort]
@[simp] theorem changeState_steps (p : PartyIx) (st : PState) (k : Programme) : (changeState p st k s).steps = s.steps := by simp only [changeState, raise_steps, onLine_steps]
@[simp] theorem changeState_pitches (p : PartyIx) (st : PState) (k : Programme) : (changeState p st k s).pitches = s.pitches := by simp only [changeState, raise_pitches, onLine_pitches]
@[simp] theorem changeState_players (p : PartyIx) (st : PState) (k : Programme) : (changeState p st k s).players = s.players := by simp only [changeState, raise_players, onLine_players]
@[simp] theorem changeState_routes (p : PartyIx) (st : PState) (k : Programme) : (changeState p st k s).routes = s.routes := by simp only [changeState, raise_routes, onLine_routes]
@[simp] theorem changeState_meter (p : PartyIx) (st : PState) (k : Programme) : (changeState p st k s).meter = s.meter := by simp only [changeState, raise_meter, onLine_meter]
@[simp] theorem changeState_points (p : PartyIx) (st : PState) (k : Programme) : (changeState p st k s).points = s.points := by simp only [changeState, raise_points, onLine_points]
@[simp] theorem changeState_sups (p : PartyIx) (st : PState) (k : Programme) : (changeState p st k s).sups = s.sups := by simp only [changeState, raise_sups, onLine_sups]
@[simp] theorem changeState_gpis (p : PartyIx) (st : PState) (k : Programme) : (changeState p st k s).gpis = s.gpis := by simp only [changeState, raise_gpis, onLine_gpis]
@[simp] theorem changeState_cells (p : PartyIx) (st : PState) (k : Programme) : (changeState p st k s).cells = s.cells := by simp only [changeState, raise_cells, onLine_cells]
@[simp] theorem changeState_gpos (p : PartyIx) (st : PState) (k : Programme) : (changeState p st k s).gpos = s.gpos := by simp only [changeState, raise_gpos, onLine_gpos]
@[simp] theorem changeState_clock (p : PartyIx) (st : PState) (k : Programme) : (changeState p st k s).clock = s.clock := by simp only [changeState, raise_clock, onLine_clock]
@[simp] theorem changeState_handed (p : PartyIx) (st : PState) (k : Programme) : (changeState p st k s).handed = s.handed := by simp only [changeState, raise_handed, onLine_handed]
@[simp] theorem changeState_pending (p : PartyIx) (st : PState) (k : Programme) : (changeState p st k s).pending = s.pending := by simp only [changeState, raise_pending, onLine_pending]

/-! ## applyCause -/

@[simp] theorem applyCause_inReset (kind : Kind) (froms : List PState) (st : PState) (ev : Option Event) (p : PartyIx) : (applyCause kind froms st ev p s).inReset = s.inReset := by
  unfold applyCause
  split
  · cases ev <;> simp only [raise_inReset, changeState_inReset]
  · rfl
@[simp] theorem applyCause_links (kind : Kind) (froms : List PState) (st : PState) (ev : Option Event) (p : PartyIx) : (applyCause kind froms st ev p s).links = s.links := by
  unfold applyCause
  split
  · cases ev <;> simp only [raise_links, changeState_links]
  · rfl
@[simp] theorem applyCause_dropCode (kind : Kind) (froms : List PState) (st : PState) (ev : Option Event) (p : PartyIx) : (applyCause kind froms st ev p s).dropCode = s.dropCode := by
  unfold applyCause
  split
  · cases ev <;> simp only [raise_dropCode, changeState_dropCode]
  · rfl
@[simp] theorem applyCause_mix (kind : Kind) (froms : List PState) (st : PState) (ev : Option Event) (p : PartyIx) : (applyCause kind froms st ev p s).mix = s.mix := by
  unfold applyCause
  split
  · cases ev <;> simp only [raise_mix, changeState_mix]
  · rfl
@[simp] theorem applyCause_partyMix (kind : Kind) (froms : List PState) (st : PState) (ev : Option Event) (p : PartyIx) : (applyCause kind froms st ev p s).partyMix = s.partyMix := by
  unfold applyCause
  split
  · cases ev <;> simp only [raise_partyMix, changeState_partyMix]
  · rfl
@[simp] theorem applyCause_formed (kind : Kind) (froms : List PState) (st : PState) (ev : Option Event) (p : PartyIx) : (applyCause kind froms st ev p s).formed = s.formed := by
  unfold applyCause
  split
  · cases ev <;> simp only [raise_formed, changeState_formed]
  · rfl
@[simp] theorem applyCause_formedBefore (kind : Kind) (froms : List PState) (st : PState) (ev : Option Event) (p : PartyIx) : (applyCause kind froms st ev p s).formedBefore = s.formedBefore := by
  unfold applyCause
  split
  · cases ev <;> simp only [raise_formedBefore, changeState_formedBefore]
  · rfl
@[simp] theorem applyCause_sent (kind : Kind) (froms : List PState) (st : PState) (ev : Option Event) (p : PartyIx) : (applyCause kind froms st ev p s).sent = s.sent := by
  unfold applyCause
  split
  · cases ev <;> simp only [raise_sent, changeState_sent]
  · rfl
@[simp] theorem applyCause_keys (kind : Kind) (froms : List PState) (st : PState) (ev : Option Event) (p : PartyIx) : (applyCause kind froms st ev p s).keys = s.keys := by
  unfold applyCause
  split
  · cases ev <;> simp only [raise_keys, changeState_keys]
  · rfl
@[simp] theorem applyCause_memSize (kind : Kind) (froms : List PState) (st : PState) (ev : Option Event) (p : PartyIx) : (applyCause kind froms st ev p s).memSize = s.memSize := by
  unfold applyCause
  split
  · cases ev <;> simp only [raise_memSize, changeState_memSize]
  · rfl
@[simp] theorem applyCause_memInUse (kind : Kind) (froms : List PState) (st : PState) (ev : Option Event) (p : PartyIx) : (applyCause kind froms st ev p s).memInUse = s.memInUse := by
  unfold applyCause
  split
  · cases ev <;> simp only [raise_memInUse, changeState_memInUse]
  · rfl
@[simp] theorem applyCause_delays (kind : Kind) (froms : List PState) (st : PState) (ev : Option Event) (p : PartyIx) : (applyCause kind froms st ev p s).delays = s.delays := by
  unfold applyCause
  split
  · cases ev <;> simp only [raise_delays, changeState_delays]
  · rfl
@[simp] theorem applyCause_sram (kind : Kind) (froms : List PState) (st : PState) (ev : Option Event) (p : PartyIx) : (applyCause kind froms st ev p s).sram = s.sram := by
  unfold applyCause
  split
  · cases ev <;> simp only [raise_sram, changeState_sram]
  · rfl
@[simp] theorem applyCause_writers (kind : Kind) (froms : List PState) (st : PState) (ev : Option Event) (p : PartyIx) : (applyCause kind froms st ev p s).writers = s.writers := by
  unfold applyCause
  split
  · cases ev <;> simp only [raise_writers, changeState_writers]
  · rfl
@[simp] theorem applyCause_memPort (kind : Kind) (froms : List PState) (st : PState) (ev : Option Event) (p : PartyIx) : (applyCause kind froms st ev p s).memPort = s.memPort := by
  unfold applyCause
  split
  · cases ev <;> simp only [raise_memPort, changeState_memPort]
  · rfl
@[simp] theorem applyCause_steps (kind : Kind) (froms : List PState) (st : PState) (ev : Option Event) (p : PartyIx) : (applyCause kind froms st ev p s).steps = s.steps := by
  unfold applyCause
  split
  · cases ev <;> simp only [raise_steps, changeState_steps]
  · rfl
@[simp] theorem applyCause_pitches (kind : Kind) (froms : List PState) (st : PState) (ev : Option Event) (p : PartyIx) : (applyCause kind froms st ev p s).pitches = s.pitches := by
  unfold applyCause
  split
  · cases ev <;> simp only [raise_pitches, changeState_pitches]
  · rfl
@[simp] theorem applyCause_players (kind : Kind) (froms : List PState) (st : PState) (ev : Option Event) (p : PartyIx) : (applyCause kind froms st ev p s).players = s.players := by
  unfold applyCause
  split
  · cases ev <;> simp only [raise_players, changeState_players]
  · rfl
@[simp] theorem applyCause_routes (kind : Kind) (froms : List PState) (st : PState) (ev : Option Event) (p : PartyIx) : (applyCause kind froms st ev p s).routes = s.routes := by
  unfold applyCause
  split
  · cases ev <;> simp only [raise_routes, changeState_routes]
  · rfl
@[simp] theorem applyCause_meter (kind : Kind) (froms : List PState) (st : PState) (ev : Option Event) (p : PartyIx) : (applyCause kind froms st ev p s).meter = s.meter := by
  unfold applyCause
  split
  · cases ev <;> simp only [raise_meter, changeState_meter]
  · rfl
@[simp] theorem applyCause_points (kind : Kind) (froms : List PState) (st : PState) (ev : Option Event) (p : PartyIx) : (applyCause kind froms st ev p s).points = s.points := by
  unfold applyCause
  split
  · cases ev <;> simp only [raise_points, changeState_points]
  · rfl
@[simp] theorem applyCause_sups (kind : Kind) (froms : List PState) (st : PState) (ev : Option Event) (p : PartyIx) : (applyCause kind froms st ev p s).sups = s.sups := by
  unfold applyCause
  split
  · cases ev <;> simp only [raise_sups, changeState_sups]
  · rfl
@[simp] theorem applyCause_gpis (kind : Kind) (froms : List PState) (st : PState) (ev : Option Event) (p : PartyIx) : (applyCause kind froms st ev p s).gpis = s.gpis := by
  unfold applyCause
  split
  · cases ev <;> simp only [raise_gpis, changeState_gpis]
  · rfl
@[simp] theorem applyCause_cells (kind : Kind) (froms : List PState) (st : PState) (ev : Option Event) (p : PartyIx) : (applyCause kind froms st ev p s).cells = s.cells := by
  unfold applyCause
  split
  · cases ev <;> simp only [raise_cells, changeState_cells]
  · rfl
@[simp] theorem applyCause_gpos (kind : Kind) (froms : List PState) (st : PState) (ev : Option Event) (p : PartyIx) : (applyCause kind froms st ev p s).gpos = s.gpos := by
  unfold applyCause
  split
  · cases ev <;> simp only [raise_gpos, changeState_gpos]
  · rfl
@[simp] theorem applyCause_clock (kind : Kind) (froms : List PState) (st : PState) (ev : Option Event) (p : PartyIx) : (applyCause kind froms st ev p s).clock = s.clock := by
  unfold applyCause
  split
  · cases ev <;> simp only [raise_clock, changeState_clock]
  · rfl
@[simp] theorem applyCause_handed (kind : Kind) (froms : List PState) (st : PState) (ev : Option Event) (p : PartyIx) : (applyCause kind froms st ev p s).handed = s.handed := by
  unfold applyCause
  split
  · cases ev <;> simp only [raise_handed, changeState_handed]
  · rfl
@[simp] theorem applyCause_pending (kind : Kind) (froms : List PState) (st : PState) (ev : Option Event) (p : PartyIx) : (applyCause kind froms st ev p s).pending = s.pending := by
  unfold applyCause
  split
  · cases ev <;> simp only [raise_pending, changeState_pending]
  · rfl

/-! ## storeParty -/

@[simp] theorem storeParty_inReset (p : PartyIx) (r : PartyRec) : (storeParty p r s).inReset = s.inReset := by simp only [storeParty, raiseIf_inReset]
@[simp] theorem storeParty_lines (p : PartyIx) (r : PartyRec) : (storeParty p r s).lines = s.lines := by simp only [storeParty, raiseIf_lines]
@[simp] theorem storeParty_links (p : PartyIx) (r : PartyRec) : (storeParty p r s).links = s.links := by simp only [storeParty, raiseIf_links]
@[simp] theorem storeParty_dropCode (p : PartyIx) (r : PartyRec) : (storeParty p r s).dropCode = s.dropCode := by simp only [storeParty, raiseIf_dropCode]
@[simp] theorem storeParty_mix (p : PartyIx) (r : PartyRec) : (storeParty p r s).mix = s.mix := by simp only [storeParty, raiseIf_mix]
@[simp] theorem storeParty_partyMix (p : PartyIx) (r : PartyRec) : (storeParty p r s).partyMix = s.partyMix := by simp only [storeParty, raiseIf_partyMix]
@[simp] theorem storeParty_formed (p : PartyIx) (r : PartyRec) : (storeParty p r s).formed = s.formed := by simp only [storeParty, raiseIf_formed]
@[simp] theorem storeParty_formedBefore (p : PartyIx) (r : PartyRec) : (storeParty p r s).formedBefore = s.formedBefore := by simp only [storeParty, raiseIf_formedBefore]
@[simp] theorem storeParty_sent (p : PartyIx) (r : PartyRec) : (storeParty p r s).sent = s.sent := by simp only [storeParty, raiseIf_sent]
@[simp] theorem storeParty_keys (p : PartyIx) (r : PartyRec) : (storeParty p r s).keys = s.keys := by simp only [storeParty, raiseIf_keys]
@[simp] theorem storeParty_memSize (p : PartyIx) (r : PartyRec) : (storeParty p r s).memSize = s.memSize := by simp only [storeParty, raiseIf_memSize]
@[simp] theorem storeParty_memInUse (p : PartyIx) (r : PartyRec) : (storeParty p r s).memInUse = s.memInUse := by simp only [storeParty, raiseIf_memInUse]
@[simp] theorem storeParty_delays (p : PartyIx) (r : PartyRec) : (storeParty p r s).delays = s.delays := by simp only [storeParty, raiseIf_delays]
@[simp] theorem storeParty_sram (p : PartyIx) (r : PartyRec) : (storeParty p r s).sram = s.sram := by simp only [storeParty, raiseIf_sram]
@[simp] theorem storeParty_writers (p : PartyIx) (r : PartyRec) : (storeParty p r s).writers = s.writers := by simp only [storeParty, raiseIf_writers]
@[simp] theorem storeParty_memPort (p : PartyIx) (r : PartyRec) : (storeParty p r s).memPort = s.memPort := by simp only [storeParty, raiseIf_memPort]
@[simp] theorem storeParty_steps (p : PartyIx) (r : PartyRec) : (storeParty p r s).steps = s.steps := by simp only [storeParty, raiseIf_steps]
@[simp] theorem storeParty_pitches (p : PartyIx) (r : PartyRec) : (storeParty p r s).pitches = s.pitches := by simp only [storeParty, raiseIf_pitches]
@[simp] theorem storeParty_players (p : PartyIx) (r : PartyRec) : (storeParty p r s).players = s.players := by simp only [storeParty, raiseIf_players]
@[simp] theorem storeParty_routes (p : PartyIx) (r : PartyRec) : (storeParty p r s).routes = s.routes := by simp only [storeParty, raiseIf_routes]
@[simp] theorem storeParty_meter (p : PartyIx) (r : PartyRec) : (storeParty p r s).meter = s.meter := by simp only [storeParty, raiseIf_meter]
@[simp] theorem storeParty_points (p : PartyIx) (r : PartyRec) : (storeParty p r s).points = s.points := by simp only [storeParty, raiseIf_points]
@[simp] theorem storeParty_sups (p : PartyIx) (r : PartyRec) : (storeParty p r s).sups = s.sups := by simp only [storeParty, raiseIf_sups]
@[simp] theorem storeParty_gpis (p : PartyIx) (r : PartyRec) : (storeParty p r s).gpis = s.gpis := by simp only [storeParty, raiseIf_gpis]
@[simp] theorem storeParty_cells (p : PartyIx) (r : PartyRec) : (storeParty p r s).cells = s.cells := by simp only [storeParty, raiseIf_cells]
@[simp] theorem storeParty_gpos (p : PartyIx) (r : PartyRec) : (storeParty p r s).gpos = s.gpos := by simp only [storeParty, raiseIf_gpos]
@[simp] theorem storeParty_clock (p : PartyIx) (r : PartyRec) : (storeParty p r s).clock = s.clock := by simp only [storeParty, raiseIf_clock]
@[simp] theorem storeParty_handed (p : PartyIx) (r : PartyRec) : (storeParty p r s).handed = s.handed := by simp only [storeParty, raiseIf_handed]
@[simp] theorem storeParty_pending (p : PartyIx) (r : PartyRec) : (storeParty p r s).pending = s.pending := by simp only [storeParty, raiseIf_pending]

/-! ## atContext -/

@[simp] theorem atContext_inReset (f : (KeyIx → Nat) → Bool → Bool → FoldBack → FoldBack) (p : PartyIx) : (atContext f p s).inReset = s.inReset := by simp only [atContext]
@[simp] theorem atContext_parties (f : (KeyIx → Nat) → Bool → Bool → FoldBack → FoldBack) (p : PartyIx) : (atContext f p s).parties = s.parties := by simp only [atContext]
@[simp] theorem atContext_lines (f : (KeyIx → Nat) → Bool → Bool → FoldBack → FoldBack) (p : PartyIx) : (atContext f p s).lines = s.lines := by simp only [atContext]
@[simp] theorem atContext_links (f : (KeyIx → Nat) → Bool → Bool → FoldBack → FoldBack) (p : PartyIx) : (atContext f p s).links = s.links := by simp only [atContext]
@[simp] theorem atContext_dropCode (f : (KeyIx → Nat) → Bool → Bool → FoldBack → FoldBack) (p : PartyIx) : (atContext f p s).dropCode = s.dropCode := by simp only [atContext]
@[simp] theorem atContext_mix (f : (KeyIx → Nat) → Bool → Bool → FoldBack → FoldBack) (p : PartyIx) : (atContext f p s).mix = s.mix := by simp only [atContext]
@[simp] theorem atContext_partyMix (f : (KeyIx → Nat) → Bool → Bool → FoldBack → FoldBack) (p : PartyIx) : (atContext f p s).partyMix = s.partyMix := by simp only [atContext]
@[simp] theorem atContext_formed (f : (KeyIx → Nat) → Bool → Bool → FoldBack → FoldBack) (p : PartyIx) : (atContext f p s).formed = s.formed := by simp only [atContext]
@[simp] theorem atContext_formedBefore (f : (KeyIx → Nat) → Bool → Bool → FoldBack → FoldBack) (p : PartyIx) : (atContext f p s).formedBefore = s.formedBefore := by simp only [atContext]
@[simp] theorem atContext_sent (f : (KeyIx → Nat) → Bool → Bool → FoldBack → FoldBack) (p : PartyIx) : (atContext f p s).sent = s.sent := by simp only [atContext]
@[simp] theorem atContext_keys (f : (KeyIx → Nat) → Bool → Bool → FoldBack → FoldBack) (p : PartyIx) : (atContext f p s).keys = s.keys := by simp only [atContext]
@[simp] theorem atContext_memSize (f : (KeyIx → Nat) → Bool → Bool → FoldBack → FoldBack) (p : PartyIx) : (atContext f p s).memSize = s.memSize := by simp only [atContext]
@[simp] theorem atContext_memInUse (f : (KeyIx → Nat) → Bool → Bool → FoldBack → FoldBack) (p : PartyIx) : (atContext f p s).memInUse = s.memInUse := by simp only [atContext]
@[simp] theorem atContext_delays (f : (KeyIx → Nat) → Bool → Bool → FoldBack → FoldBack) (p : PartyIx) : (atContext f p s).delays = s.delays := by simp only [atContext]
@[simp] theorem atContext_sram (f : (KeyIx → Nat) → Bool → Bool → FoldBack → FoldBack) (p : PartyIx) : (atContext f p s).sram = s.sram := by simp only [atContext]
@[simp] theorem atContext_writers (f : (KeyIx → Nat) → Bool → Bool → FoldBack → FoldBack) (p : PartyIx) : (atContext f p s).writers = s.writers := by simp only [atContext]
@[simp] theorem atContext_memPort (f : (KeyIx → Nat) → Bool → Bool → FoldBack → FoldBack) (p : PartyIx) : (atContext f p s).memPort = s.memPort := by simp only [atContext]
@[simp] theorem atContext_steps (f : (KeyIx → Nat) → Bool → Bool → FoldBack → FoldBack) (p : PartyIx) : (atContext f p s).steps = s.steps := by simp only [atContext]
@[simp] theorem atContext_pitches (f : (KeyIx → Nat) → Bool → Bool → FoldBack → FoldBack) (p : PartyIx) : (atContext f p s).pitches = s.pitches := by simp only [atContext]
@[simp] theorem atContext_players (f : (KeyIx → Nat) → Bool → Bool → FoldBack → FoldBack) (p : PartyIx) : (atContext f p s).players = s.players := by simp only [atContext]
@[simp] theorem atContext_routes (f : (KeyIx → Nat) → Bool → Bool → FoldBack → FoldBack) (p : PartyIx) : (atContext f p s).routes = s.routes := by simp only [atContext]
@[simp] theorem atContext_meter (f : (KeyIx → Nat) → Bool → Bool → FoldBack → FoldBack) (p : PartyIx) : (atContext f p s).meter = s.meter := by simp only [atContext]
@[simp] theorem atContext_points (f : (KeyIx → Nat) → Bool → Bool → FoldBack → FoldBack) (p : PartyIx) : (atContext f p s).points = s.points := by simp only [atContext]
@[simp] theorem atContext_sups (f : (KeyIx → Nat) → Bool → Bool → FoldBack → FoldBack) (p : PartyIx) : (atContext f p s).sups = s.sups := by simp only [atContext]
@[simp] theorem atContext_gpis (f : (KeyIx → Nat) → Bool → Bool → FoldBack → FoldBack) (p : PartyIx) : (atContext f p s).gpis = s.gpis := by simp only [atContext]
@[simp] theorem atContext_cells (f : (KeyIx → Nat) → Bool → Bool → FoldBack → FoldBack) (p : PartyIx) : (atContext f p s).cells = s.cells := by simp only [atContext]
@[simp] theorem atContext_gpos (f : (KeyIx → Nat) → Bool → Bool → FoldBack → FoldBack) (p : PartyIx) : (atContext f p s).gpos = s.gpos := by simp only [atContext]
@[simp] theorem atContext_ports (f : (KeyIx → Nat) → Bool → Bool → FoldBack → FoldBack) (p : PartyIx) : (atContext f p s).ports = s.ports := by simp only [atContext]
@[simp] theorem atContext_clock (f : (KeyIx → Nat) → Bool → Bool → FoldBack → FoldBack) (p : PartyIx) : (atContext f p s).clock = s.clock := by simp only [atContext]
@[simp] theorem atContext_handed (f : (KeyIx → Nat) → Bool → Bool → FoldBack → FoldBack) (p : PartyIx) : (atContext f p s).handed = s.handed := by simp only [atContext]
@[simp] theorem atContext_pending (f : (KeyIx → Nat) → Bool → Bool → FoldBack → FoldBack) (p : PartyIx) : (atContext f p s).pending = s.pending := by simp only [atContext]

/-! ## storeKey -/

@[simp] theorem storeKey_inReset (k : KeyIx) (new : Key) : (storeKey k new s).inReset = s.inReset := rfl
@[simp] theorem storeKey_parties (k : KeyIx) (new : Key) : (storeKey k new s).parties = s.parties := rfl
@[simp] theorem storeKey_lines (k : KeyIx) (new : Key) : (storeKey k new s).lines = s.lines := rfl
@[simp] theorem storeKey_links (k : KeyIx) (new : Key) : (storeKey k new s).links = s.links := rfl
@[simp] theorem storeKey_dropCode (k : KeyIx) (new : Key) : (storeKey k new s).dropCode = s.dropCode := rfl
@[simp] theorem storeKey_mix (k : KeyIx) (new : Key) : (storeKey k new s).mix = s.mix := rfl
@[simp] theorem storeKey_partyMix (k : KeyIx) (new : Key) : (storeKey k new s).partyMix = s.partyMix := rfl
@[simp] theorem storeKey_formed (k : KeyIx) (new : Key) : (storeKey k new s).formed = s.formed := rfl
@[simp] theorem storeKey_formedBefore (k : KeyIx) (new : Key) : (storeKey k new s).formedBefore = s.formedBefore := rfl
@[simp] theorem storeKey_sent (k : KeyIx) (new : Key) : (storeKey k new s).sent = s.sent := rfl
@[simp] theorem storeKey_memSize (k : KeyIx) (new : Key) : (storeKey k new s).memSize = s.memSize := rfl
@[simp] theorem storeKey_memInUse (k : KeyIx) (new : Key) : (storeKey k new s).memInUse = s.memInUse := rfl
@[simp] theorem storeKey_delays (k : KeyIx) (new : Key) : (storeKey k new s).delays = s.delays := rfl
@[simp] theorem storeKey_sram (k : KeyIx) (new : Key) : (storeKey k new s).sram = s.sram := rfl
@[simp] theorem storeKey_writers (k : KeyIx) (new : Key) : (storeKey k new s).writers = s.writers := rfl
@[simp] theorem storeKey_memPort (k : KeyIx) (new : Key) : (storeKey k new s).memPort = s.memPort := rfl
@[simp] theorem storeKey_steps (k : KeyIx) (new : Key) : (storeKey k new s).steps = s.steps := rfl
@[simp] theorem storeKey_pitches (k : KeyIx) (new : Key) : (storeKey k new s).pitches = s.pitches := rfl
@[simp] theorem storeKey_players (k : KeyIx) (new : Key) : (storeKey k new s).players = s.players := rfl
@[simp] theorem storeKey_routes (k : KeyIx) (new : Key) : (storeKey k new s).routes = s.routes := rfl
@[simp] theorem storeKey_meter (k : KeyIx) (new : Key) : (storeKey k new s).meter = s.meter := rfl
@[simp] theorem storeKey_points (k : KeyIx) (new : Key) : (storeKey k new s).points = s.points := rfl
@[simp] theorem storeKey_sups (k : KeyIx) (new : Key) : (storeKey k new s).sups = s.sups := rfl
@[simp] theorem storeKey_gpis (k : KeyIx) (new : Key) : (storeKey k new s).gpis = s.gpis := rfl
@[simp] theorem storeKey_cells (k : KeyIx) (new : Key) : (storeKey k new s).cells = s.cells := rfl
@[simp] theorem storeKey_gpos (k : KeyIx) (new : Key) : (storeKey k new s).gpos = s.gpos := rfl
@[simp] theorem storeKey_ports (k : KeyIx) (new : Key) : (storeKey k new s).ports = s.ports := rfl
@[simp] theorem storeKey_clock (k : KeyIx) (new : Key) : (storeKey k new s).clock = s.clock := rfl
@[simp] theorem storeKey_handed (k : KeyIx) (new : Key) : (storeKey k new s).handed = s.handed := rfl
@[simp] theorem storeKey_pending (k : KeyIx) (new : Key) : (storeKey k new s).pending = s.pending := rfl

/-! ## reform -/

@[simp] theorem reform_inReset (k : KeyIx) (new : Key) : (reform k new s).inReset = s.inReset := rfl
@[simp] theorem reform_parties (k : KeyIx) (new : Key) : (reform k new s).parties = s.parties := rfl
@[simp] theorem reform_lines (k : KeyIx) (new : Key) : (reform k new s).lines = s.lines := rfl
@[simp] theorem reform_links (k : KeyIx) (new : Key) : (reform k new s).links = s.links := rfl
@[simp] theorem reform_dropCode (k : KeyIx) (new : Key) : (reform k new s).dropCode = s.dropCode := rfl
@[simp] theorem reform_mix (k : KeyIx) (new : Key) : (reform k new s).mix = s.mix := rfl
@[simp] theorem reform_partyMix (k : KeyIx) (new : Key) : (reform k new s).partyMix = s.partyMix := rfl
@[simp] theorem reform_formed (k : KeyIx) (new : Key) : (reform k new s).formed = s.formed := rfl
@[simp] theorem reform_formedBefore (k : KeyIx) (new : Key) : (reform k new s).formedBefore = s.formedBefore := rfl
@[simp] theorem reform_sent (k : KeyIx) (new : Key) : (reform k new s).sent = s.sent := rfl
@[simp] theorem reform_memSize (k : KeyIx) (new : Key) : (reform k new s).memSize = s.memSize := rfl
@[simp] theorem reform_memInUse (k : KeyIx) (new : Key) : (reform k new s).memInUse = s.memInUse := rfl
@[simp] theorem reform_delays (k : KeyIx) (new : Key) : (reform k new s).delays = s.delays := rfl
@[simp] theorem reform_sram (k : KeyIx) (new : Key) : (reform k new s).sram = s.sram := rfl
@[simp] theorem reform_writers (k : KeyIx) (new : Key) : (reform k new s).writers = s.writers := rfl
@[simp] theorem reform_memPort (k : KeyIx) (new : Key) : (reform k new s).memPort = s.memPort := rfl
@[simp] theorem reform_steps (k : KeyIx) (new : Key) : (reform k new s).steps = s.steps := rfl
@[simp] theorem reform_pitches (k : KeyIx) (new : Key) : (reform k new s).pitches = s.pitches := rfl
@[simp] theorem reform_players (k : KeyIx) (new : Key) : (reform k new s).players = s.players := rfl
@[simp] theorem reform_routes (k : KeyIx) (new : Key) : (reform k new s).routes = s.routes := rfl
@[simp] theorem reform_meter (k : KeyIx) (new : Key) : (reform k new s).meter = s.meter := rfl
@[simp] theorem reform_points (k : KeyIx) (new : Key) : (reform k new s).points = s.points := rfl
@[simp] theorem reform_sups (k : KeyIx) (new : Key) : (reform k new s).sups = s.sups := rfl
@[simp] theorem reform_gpis (k : KeyIx) (new : Key) : (reform k new s).gpis = s.gpis := rfl
@[simp] theorem reform_cells (k : KeyIx) (new : Key) : (reform k new s).cells = s.cells := rfl
@[simp] theorem reform_gpos (k : KeyIx) (new : Key) : (reform k new s).gpos = s.gpos := rfl
@[simp] theorem reform_ports (k : KeyIx) (new : Key) : (reform k new s).ports = s.ports := rfl
@[simp] theorem reform_clock (k : KeyIx) (new : Key) : (reform k new s).clock = s.clock := rfl
@[simp] theorem reform_handed (k : KeyIx) (new : Key) : (reform k new s).handed = s.handed := rfl
@[simp] theorem reform_pending (k : KeyIx) (new : Key) : (reform k new s).pending = s.pending := rfl

/-! ## putSend -/

@[simp] theorem putSend_inReset (n : StudioIx) (b : BusIx) (x : Send) : (putSend n b x s).inReset = s.inReset := by simp only [putSend]
@[simp] theorem putSend_parties (n : StudioIx) (b : BusIx) (x : Send) : (putSend n b x s).parties = s.parties := by simp only [putSend]
@[simp] theorem putSend_lines (n : StudioIx) (b : BusIx) (x : Send) : (putSend n b x s).lines = s.lines := by simp only [putSend]
@[simp] theorem putSend_links (n : StudioIx) (b : BusIx) (x : Send) : (putSend n b x s).links = s.links := by simp only [putSend]
@[simp] theorem putSend_dropCode (n : StudioIx) (b : BusIx) (x : Send) : (putSend n b x s).dropCode = s.dropCode := by simp only [putSend]
@[simp] theorem putSend_partyMix (n : StudioIx) (b : BusIx) (x : Send) : (putSend n b x s).partyMix = s.partyMix := by simp only [putSend]
@[simp] theorem putSend_formed (n : StudioIx) (b : BusIx) (x : Send) : (putSend n b x s).formed = s.formed := by simp only [putSend]
@[simp] theorem putSend_formedBefore (n : StudioIx) (b : BusIx) (x : Send) : (putSend n b x s).formedBefore = s.formedBefore := by simp only [putSend]
@[simp] theorem putSend_sent (n : StudioIx) (b : BusIx) (x : Send) : (putSend n b x s).sent = s.sent := by simp only [putSend]
@[simp] theorem putSend_keys (n : StudioIx) (b : BusIx) (x : Send) : (putSend n b x s).keys = s.keys := by simp only [putSend]
@[simp] theorem putSend_foldBacks (n : StudioIx) (b : BusIx) (x : Send) : (putSend n b x s).foldBacks = s.foldBacks := by simp only [putSend]
@[simp] theorem putSend_memSize (n : StudioIx) (b : BusIx) (x : Send) : (putSend n b x s).memSize = s.memSize := by simp only [putSend]
@[simp] theorem putSend_memInUse (n : StudioIx) (b : BusIx) (x : Send) : (putSend n b x s).memInUse = s.memInUse := by simp only [putSend]
@[simp] theorem putSend_delays (n : StudioIx) (b : BusIx) (x : Send) : (putSend n b x s).delays = s.delays := by simp only [putSend]
@[simp] theorem putSend_sram (n : StudioIx) (b : BusIx) (x : Send) : (putSend n b x s).sram = s.sram := by simp only [putSend]
@[simp] theorem putSend_writers (n : StudioIx) (b : BusIx) (x : Send) : (putSend n b x s).writers = s.writers := by simp only [putSend]
@[simp] theorem putSend_memPort (n : StudioIx) (b : BusIx) (x : Send) : (putSend n b x s).memPort = s.memPort := by simp only [putSend]
@[simp] theorem putSend_steps (n : StudioIx) (b : BusIx) (x : Send) : (putSend n b x s).steps = s.steps := by simp only [putSend]
@[simp] theorem putSend_pitches (n : StudioIx) (b : BusIx) (x : Send) : (putSend n b x s).pitches = s.pitches := by simp only [putSend]
@[simp] theorem putSend_players (n : StudioIx) (b : BusIx) (x : Send) : (putSend n b x s).players = s.players := by simp only [putSend]
@[simp] theorem putSend_routes (n : StudioIx) (b : BusIx) (x : Send) : (putSend n b x s).routes = s.routes := by simp only [putSend]
@[simp] theorem putSend_meter (n : StudioIx) (b : BusIx) (x : Send) : (putSend n b x s).meter = s.meter := by simp only [putSend]
@[simp] theorem putSend_points (n : StudioIx) (b : BusIx) (x : Send) : (putSend n b x s).points = s.points := by simp only [putSend]
@[simp] theorem putSend_sups (n : StudioIx) (b : BusIx) (x : Send) : (putSend n b x s).sups = s.sups := by simp only [putSend]
@[simp] theorem putSend_gpis (n : StudioIx) (b : BusIx) (x : Send) : (putSend n b x s).gpis = s.gpis := by simp only [putSend]
@[simp] theorem putSend_cells (n : StudioIx) (b : BusIx) (x : Send) : (putSend n b x s).cells = s.cells := by simp only [putSend]
@[simp] theorem putSend_gpos (n : StudioIx) (b : BusIx) (x : Send) : (putSend n b x s).gpos = s.gpos := by simp only [putSend]
@[simp] theorem putSend_ports (n : StudioIx) (b : BusIx) (x : Send) : (putSend n b x s).ports = s.ports := by simp only [putSend]
@[simp] theorem putSend_clock (n : StudioIx) (b : BusIx) (x : Send) : (putSend n b x s).clock = s.clock := by simp only [putSend]
@[simp] theorem putSend_handed (n : StudioIx) (b : BusIx) (x : Send) : (putSend n b x s).handed = s.handed := by simp only [putSend]
@[simp] theorem putSend_pending (n : StudioIx) (b : BusIx) (x : Send) : (putSend n b x s).pending = s.pending := by simp only [putSend]

/-! ## testGuards -/

@[simp] theorem testGuards_inReset (k : Programme) : (testGuards k s).inReset = s.inReset := by simp only [testGuards]
@[simp] theorem testGuards_lines (k : Programme) : (testGuards k s).lines = s.lines := by simp only [testGuards]
@[simp] theorem testGuards_links (k : Programme) : (testGuards k s).links = s.links := by simp only [testGuards]
@[simp] theorem testGuards_dropCode (k : Programme) : (testGuards k s).dropCode = s.dropCode := by simp only [testGuards]
@[simp] theorem testGuards_mix (k : Programme) : (testGuards k s).mix = s.mix := by simp only [testGuards]
@[simp] theorem testGuards_partyMix (k : Programme) : (testGuards k s).partyMix = s.partyMix := by simp only [testGuards]
@[simp] theorem testGuards_formed (k : Programme) : (testGuards k s).formed = s.formed := by simp only [testGuards]
@[simp] theorem testGuards_formedBefore (k : Programme) : (testGuards k s).formedBefore = s.formedBefore := by simp only [testGuards]
@[simp] theorem testGuards_sent (k : Programme) : (testGuards k s).sent = s.sent := by simp only [testGuards]
@[simp] theorem testGuards_keys (k : Programme) : (testGuards k s).keys = s.keys := by simp only [testGuards]
@[simp] theorem testGuards_foldBacks (k : Programme) : (testGuards k s).foldBacks = s.foldBacks := by simp only [testGuards]
@[simp] theorem testGuards_memSize (k : Programme) : (testGuards k s).memSize = s.memSize := by simp only [testGuards]
@[simp] theorem testGuards_memInUse (k : Programme) : (testGuards k s).memInUse = s.memInUse := by simp only [testGuards]
@[simp] theorem testGuards_delays (k : Programme) : (testGuards k s).delays = s.delays := by simp only [testGuards]
@[simp] theorem testGuards_sram (k : Programme) : (testGuards k s).sram = s.sram := by simp only [testGuards]
@[simp] theorem testGuards_writers (k : Programme) : (testGuards k s).writers = s.writers := by simp only [testGuards]
@[simp] theorem testGuards_memPort (k : Programme) : (testGuards k s).memPort = s.memPort := by simp only [testGuards]
@[simp] theorem testGuards_steps (k : Programme) : (testGuards k s).steps = s.steps := by simp only [testGuards]
@[simp] theorem testGuards_pitches (k : Programme) : (testGuards k s).pitches = s.pitches := by simp only [testGuards]
@[simp] theorem testGuards_players (k : Programme) : (testGuards k s).players = s.players := by simp only [testGuards]
@[simp] theorem testGuards_routes (k : Programme) : (testGuards k s).routes = s.routes := by simp only [testGuards]
@[simp] theorem testGuards_meter (k : Programme) : (testGuards k s).meter = s.meter := by simp only [testGuards]
@[simp] theorem testGuards_points (k : Programme) : (testGuards k s).points = s.points := by simp only [testGuards]
@[simp] theorem testGuards_sups (k : Programme) : (testGuards k s).sups = s.sups := by simp only [testGuards]
@[simp] theorem testGuards_gpis (k : Programme) : (testGuards k s).gpis = s.gpis := by simp only [testGuards]
@[simp] theorem testGuards_cells (k : Programme) : (testGuards k s).cells = s.cells := by simp only [testGuards]
@[simp] theorem testGuards_gpos (k : Programme) : (testGuards k s).gpos = s.gpos := by simp only [testGuards]
@[simp] theorem testGuards_ports (k : Programme) : (testGuards k s).ports = s.ports := by simp only [testGuards]
@[simp] theorem testGuards_clock (k : Programme) : (testGuards k s).clock = s.clock := by simp only [testGuards]
@[simp] theorem testGuards_handed (k : Programme) : (testGuards k s).handed = s.handed := by simp only [testGuards]
@[simp] theorem testGuards_pending (k : Programme) : (testGuards k s).pending = s.pending := by simp only [testGuards]

/-! ## delayPeriod -/

@[simp] theorem delayPeriod_inReset (k : Programme) : (delayPeriod k s).inReset = s.inReset := by simp only [delayPeriod, raiseIf_inReset, testGuards_inReset]
@[simp] theorem delayPeriod_lines (k : Programme) : (delayPeriod k s).lines = s.lines := by simp only [delayPeriod, raiseIf_lines, testGuards_lines]
@[simp] theorem delayPeriod_links (k : Programme) : (delayPeriod k s).links = s.links := by simp only [delayPeriod, raiseIf_links, testGuards_links]
@[simp] theorem delayPeriod_dropCode (k : Programme) : (delayPeriod k s).dropCode = s.dropCode := by simp only [delayPeriod, raiseIf_dropCode, testGuards_dropCode]
@[simp] theorem delayPeriod_mix (k : Programme) : (delayPeriod k s).mix = s.mix := by simp only [delayPeriod, raiseIf_mix, testGuards_mix]
@[simp] theorem delayPeriod_partyMix (k : Programme) : (delayPeriod k s).partyMix = s.partyMix := by simp only [delayPeriod, raiseIf_partyMix, testGuards_partyMix]
@[simp] theorem delayPeriod_formed (k : Programme) : (delayPeriod k s).formed = s.formed := by simp only [delayPeriod, raiseIf_formed, testGuards_formed]
@[simp] theorem delayPeriod_formedBefore (k : Programme) : (delayPeriod k s).formedBefore = s.formedBefore := by simp only [delayPeriod, raiseIf_formedBefore, testGuards_formedBefore]
@[simp] theorem delayPeriod_sent (k : Programme) : (delayPeriod k s).sent = s.sent := by simp only [delayPeriod, raiseIf_sent, testGuards_sent]
@[simp] theorem delayPeriod_keys (k : Programme) : (delayPeriod k s).keys = s.keys := by simp only [delayPeriod, raiseIf_keys, testGuards_keys]
@[simp] theorem delayPeriod_foldBacks (k : Programme) : (delayPeriod k s).foldBacks = s.foldBacks := by simp only [delayPeriod, raiseIf_foldBacks, testGuards_foldBacks]
@[simp] theorem delayPeriod_memSize (k : Programme) : (delayPeriod k s).memSize = s.memSize := by simp only [delayPeriod, raiseIf_memSize, testGuards_memSize]
@[simp] theorem delayPeriod_sram (k : Programme) : (delayPeriod k s).sram = s.sram := by simp only [delayPeriod, raiseIf_sram, testGuards_sram]
@[simp] theorem delayPeriod_writers (k : Programme) : (delayPeriod k s).writers = s.writers := by simp only [delayPeriod, raiseIf_writers, testGuards_writers]
@[simp] theorem delayPeriod_memPort (k : Programme) : (delayPeriod k s).memPort = s.memPort := by simp only [delayPeriod, raiseIf_memPort, testGuards_memPort]
@[simp] theorem delayPeriod_steps (k : Programme) : (delayPeriod k s).steps = s.steps := by simp only [delayPeriod, raiseIf_steps, testGuards_steps]
@[simp] theorem delayPeriod_pitches (k : Programme) : (delayPeriod k s).pitches = s.pitches := by simp only [delayPeriod, raiseIf_pitches, testGuards_pitches]
@[simp] theorem delayPeriod_players (k : Programme) : (delayPeriod k s).players = s.players := by simp only [delayPeriod, raiseIf_players, testGuards_players]
@[simp] theorem delayPeriod_routes (k : Programme) : (delayPeriod k s).routes = s.routes := by simp only [delayPeriod, raiseIf_routes, testGuards_routes]
@[simp] theorem delayPeriod_meter (k : Programme) : (delayPeriod k s).meter = s.meter := by simp only [delayPeriod, raiseIf_meter, testGuards_meter]
@[simp] theorem delayPeriod_points (k : Programme) : (delayPeriod k s).points = s.points := by simp only [delayPeriod, raiseIf_points, testGuards_points]
@[simp] theorem delayPeriod_sups (k : Programme) : (delayPeriod k s).sups = s.sups := by simp only [delayPeriod, raiseIf_sups, testGuards_sups]
@[simp] theorem delayPeriod_gpis (k : Programme) : (delayPeriod k s).gpis = s.gpis := by simp only [delayPeriod, raiseIf_gpis, testGuards_gpis]
@[simp] theorem delayPeriod_cells (k : Programme) : (delayPeriod k s).cells = s.cells := by simp only [delayPeriod, raiseIf_cells, testGuards_cells]
@[simp] theorem delayPeriod_gpos (k : Programme) : (delayPeriod k s).gpos = s.gpos := by simp only [delayPeriod, raiseIf_gpos, testGuards_gpos]
@[simp] theorem delayPeriod_clock (k : Programme) : (delayPeriod k s).clock = s.clock := by simp only [delayPeriod, raiseIf_clock, testGuards_clock]
@[simp] theorem delayPeriod_handed (k : Programme) : (delayPeriod k s).handed = s.handed := by simp only [delayPeriod, raiseIf_handed, testGuards_handed]
@[simp] theorem delayPeriod_pending (k : Programme) : (delayPeriod k s).pending = s.pending := by simp only [delayPeriod, raiseIf_pending, testGuards_pending]

/-! ## writeRead -/

@[simp] theorem writeRead_inReset (k : Programme) : (writeRead k s).inReset = s.inReset := by simp only [writeRead]
@[simp] theorem writeRead_parties (k : Programme) : (writeRead k s).parties = s.parties := by simp only [writeRead]
@[simp] theorem writeRead_lines (k : Programme) : (writeRead k s).lines = s.lines := by simp only [writeRead]
@[simp] theorem writeRead_links (k : Programme) : (writeRead k s).links = s.links := by simp only [writeRead]
@[simp] theorem writeRead_dropCode (k : Programme) : (writeRead k s).dropCode = s.dropCode := by simp only [writeRead]
@[simp] theorem writeRead_mix (k : Programme) : (writeRead k s).mix = s.mix := by simp only [writeRead]
@[simp] theorem writeRead_partyMix (k : Programme) : (writeRead k s).partyMix = s.partyMix := by simp only [writeRead]
@[simp] theorem writeRead_formed (k : Programme) : (writeRead k s).formed = s.formed := by simp only [writeRead]
@[simp] theorem writeRead_formedBefore (k : Programme) : (writeRead k s).formedBefore = s.formedBefore := by simp only [writeRead]
@[simp] theorem writeRead_sent (k : Programme) : (writeRead k s).sent = s.sent := by simp only [writeRead]
@[simp] theorem writeRead_keys (k : Programme) : (writeRead k s).keys = s.keys := by simp only [writeRead]
@[simp] theorem writeRead_foldBacks (k : Programme) : (writeRead k s).foldBacks = s.foldBacks := by simp only [writeRead]
@[simp] theorem writeRead_memSize (k : Programme) : (writeRead k s).memSize = s.memSize := by simp only [writeRead]
@[simp] theorem writeRead_memInUse (k : Programme) : (writeRead k s).memInUse = s.memInUse := by simp only [writeRead]
@[simp] theorem writeRead_steps (k : Programme) : (writeRead k s).steps = s.steps := by simp only [writeRead]
@[simp] theorem writeRead_pitches (k : Programme) : (writeRead k s).pitches = s.pitches := by simp only [writeRead]
@[simp] theorem writeRead_players (k : Programme) : (writeRead k s).players = s.players := by simp only [writeRead]
@[simp] theorem writeRead_routes (k : Programme) : (writeRead k s).routes = s.routes := by simp only [writeRead]
@[simp] theorem writeRead_meter (k : Programme) : (writeRead k s).meter = s.meter := by simp only [writeRead]
@[simp] theorem writeRead_points (k : Programme) : (writeRead k s).points = s.points := by simp only [writeRead]
@[simp] theorem writeRead_sups (k : Programme) : (writeRead k s).sups = s.sups := by simp only [writeRead]
@[simp] theorem writeRead_gpis (k : Programme) : (writeRead k s).gpis = s.gpis := by simp only [writeRead]
@[simp] theorem writeRead_cells (k : Programme) : (writeRead k s).cells = s.cells := by simp only [writeRead]
@[simp] theorem writeRead_gpos (k : Programme) : (writeRead k s).gpos = s.gpos := by simp only [writeRead]
@[simp] theorem writeRead_ports (k : Programme) : (writeRead k s).ports = s.ports := by simp only [writeRead]
@[simp] theorem writeRead_clock (k : Programme) : (writeRead k s).clock = s.clock := by simp only [writeRead]
@[simp] theorem writeRead_handed (k : Programme) : (writeRead k s).handed = s.handed := by simp only [writeRead]
@[simp] theorem writeRead_pending (k : Programme) : (writeRead k s).pending = s.pending := by simp only [writeRead]

/-! ## sampleAll -/

@[simp] theorem sampleAll_inReset (aux : AuxIn) : (sampleAll aux s).inReset = s.inReset := by simp only [sampleAll]
@[simp] theorem sampleAll_parties (aux : AuxIn) : (sampleAll aux s).parties = s.parties := by simp only [sampleAll]
@[simp] theorem sampleAll_dropCode (aux : AuxIn) : (sampleAll aux s).dropCode = s.dropCode := by simp only [sampleAll]
@[simp] theorem sampleAll_mix (aux : AuxIn) : (sampleAll aux s).mix = s.mix := by simp only [sampleAll]
@[simp] theorem sampleAll_partyMix (aux : AuxIn) : (sampleAll aux s).partyMix = s.partyMix := by simp only [sampleAll]
@[simp] theorem sampleAll_formed (aux : AuxIn) : (sampleAll aux s).formed = s.formed := by simp only [sampleAll]
@[simp] theorem sampleAll_formedBefore (aux : AuxIn) : (sampleAll aux s).formedBefore = s.formedBefore := by simp only [sampleAll]
@[simp] theorem sampleAll_sent (aux : AuxIn) : (sampleAll aux s).sent = s.sent := by simp only [sampleAll]
@[simp] theorem sampleAll_keys (aux : AuxIn) : (sampleAll aux s).keys = s.keys := by simp only [sampleAll]
@[simp] theorem sampleAll_foldBacks (aux : AuxIn) : (sampleAll aux s).foldBacks = s.foldBacks := by simp only [sampleAll]
@[simp] theorem sampleAll_memSize (aux : AuxIn) : (sampleAll aux s).memSize = s.memSize := by simp only [sampleAll]
@[simp] theorem sampleAll_memInUse (aux : AuxIn) : (sampleAll aux s).memInUse = s.memInUse := by simp only [sampleAll]
@[simp] theorem sampleAll_delays (aux : AuxIn) : (sampleAll aux s).delays = s.delays := by simp only [sampleAll]
@[simp] theorem sampleAll_sram (aux : AuxIn) : (sampleAll aux s).sram = s.sram := by simp only [sampleAll]
@[simp] theorem sampleAll_writers (aux : AuxIn) : (sampleAll aux s).writers = s.writers := by simp only [sampleAll]
@[simp] theorem sampleAll_memPort (aux : AuxIn) : (sampleAll aux s).memPort = s.memPort := by simp only [sampleAll]
@[simp] theorem sampleAll_steps (aux : AuxIn) : (sampleAll aux s).steps = s.steps := by simp only [sampleAll]
@[simp] theorem sampleAll_pitches (aux : AuxIn) : (sampleAll aux s).pitches = s.pitches := by simp only [sampleAll]
@[simp] theorem sampleAll_players (aux : AuxIn) : (sampleAll aux s).players = s.players := by simp only [sampleAll]
@[simp] theorem sampleAll_routes (aux : AuxIn) : (sampleAll aux s).routes = s.routes := by simp only [sampleAll]
@[simp] theorem sampleAll_meter (aux : AuxIn) : (sampleAll aux s).meter = s.meter := by simp only [sampleAll]
@[simp] theorem sampleAll_points (aux : AuxIn) : (sampleAll aux s).points = s.points := by simp only [sampleAll]
@[simp] theorem sampleAll_sups (aux : AuxIn) : (sampleAll aux s).sups = s.sups := by simp only [sampleAll]
@[simp] theorem sampleAll_gpis (aux : AuxIn) : (sampleAll aux s).gpis = s.gpis := by simp only [sampleAll]
@[simp] theorem sampleAll_cells (aux : AuxIn) : (sampleAll aux s).cells = s.cells := by simp only [sampleAll]
@[simp] theorem sampleAll_gpos (aux : AuxIn) : (sampleAll aux s).gpos = s.gpos := by simp only [sampleAll]
@[simp] theorem sampleAll_ports (aux : AuxIn) : (sampleAll aux s).ports = s.ports := by simp only [sampleAll]
@[simp] theorem sampleAll_clock (aux : AuxIn) : (sampleAll aux s).clock = s.clock := by simp only [sampleAll]
@[simp] theorem sampleAll_handed (aux : AuxIn) : (sampleAll aux s).handed = s.handed := by simp only [sampleAll]
@[simp] theorem sampleAll_pending (aux : AuxIn) : (sampleAll aux s).pending = s.pending := by simp only [sampleAll]

/-! ## evaluateParty -/

@[simp] theorem evaluateParty_inReset (p : PartyIx) : (evaluateParty p s).inReset = s.inReset := by
  unfold evaluateParty
  split
  · simp only [hand_inReset, raiseIf_inReset]
  · rfl
@[simp] theorem evaluateParty_parties (p : PartyIx) : (evaluateParty p s).parties = s.parties := by
  unfold evaluateParty
  split
  · simp only [hand_parties, raiseIf_parties]
  · rfl
@[simp] theorem evaluateParty_links (p : PartyIx) : (evaluateParty p s).links = s.links := by
  unfold evaluateParty
  split
  · simp only [hand_links, raiseIf_links]
  · rfl
@[simp] theorem evaluateParty_dropCode (p : PartyIx) : (evaluateParty p s).dropCode = s.dropCode := by
  unfold evaluateParty
  split
  · simp only [hand_dropCode, raiseIf_dropCode]
  · rfl
@[simp] theorem evaluateParty_mix (p : PartyIx) : (evaluateParty p s).mix = s.mix := by
  unfold evaluateParty
  split
  · simp only [hand_mix, raiseIf_mix]
  · rfl
@[simp] theorem evaluateParty_partyMix (p : PartyIx) : (evaluateParty p s).partyMix = s.partyMix := by
  unfold evaluateParty
  split
  · simp only [hand_partyMix, raiseIf_partyMix]
  · rfl
@[simp] theorem evaluateParty_formed (p : PartyIx) : (evaluateParty p s).formed = s.formed := by
  unfold evaluateParty
  split
  · simp only [hand_formed, raiseIf_formed]
  · rfl
@[simp] theorem evaluateParty_formedBefore (p : PartyIx) : (evaluateParty p s).formedBefore = s.formedBefore := by
  unfold evaluateParty
  split
  · simp only [hand_formedBefore, raiseIf_formedBefore]
  · rfl
@[simp] theorem evaluateParty_sent (p : PartyIx) : (evaluateParty p s).sent = s.sent := by
  unfold evaluateParty
  split
  · simp only [hand_sent, raiseIf_sent]
  · rfl
@[simp] theorem evaluateParty_keys (p : PartyIx) : (evaluateParty p s).keys = s.keys := by
  unfold evaluateParty
  split
  · simp only [hand_keys, raiseIf_keys]
  · rfl
@[simp] theorem evaluateParty_foldBacks (p : PartyIx) : (evaluateParty p s).foldBacks = s.foldBacks := by
  unfold evaluateParty
  split
  · simp only [hand_foldBacks, raiseIf_foldBacks]
  · rfl
@[simp] theorem evaluateParty_memSize (p : PartyIx) : (evaluateParty p s).memSize = s.memSize := by
  unfold evaluateParty
  split
  · simp only [hand_memSize, raiseIf_memSize]
  · rfl
@[simp] theorem evaluateParty_memInUse (p : PartyIx) : (evaluateParty p s).memInUse = s.memInUse := by
  unfold evaluateParty
  split
  · simp only [hand_memInUse, raiseIf_memInUse]
  · rfl
@[simp] theorem evaluateParty_delays (p : PartyIx) : (evaluateParty p s).delays = s.delays := by
  unfold evaluateParty
  split
  · simp only [hand_delays, raiseIf_delays]
  · rfl
@[simp] theorem evaluateParty_sram (p : PartyIx) : (evaluateParty p s).sram = s.sram := by
  unfold evaluateParty
  split
  · simp only [hand_sram, raiseIf_sram]
  · rfl
@[simp] theorem evaluateParty_writers (p : PartyIx) : (evaluateParty p s).writers = s.writers := by
  unfold evaluateParty
  split
  · simp only [hand_writers, raiseIf_writers]
  · rfl
@[simp] theorem evaluateParty_memPort (p : PartyIx) : (evaluateParty p s).memPort = s.memPort := by
  unfold evaluateParty
  split
  · simp only [hand_memPort, raiseIf_memPort]
  · rfl
@[simp] theorem evaluateParty_steps (p : PartyIx) : (evaluateParty p s).steps = s.steps := by
  unfold evaluateParty
  split
  · simp only [hand_steps, raiseIf_steps]
  · rfl
@[simp] theorem evaluateParty_pitches (p : PartyIx) : (evaluateParty p s).pitches = s.pitches := by
  unfold evaluateParty
  split
  · simp only [hand_pitches, raiseIf_pitches]
  · rfl
@[simp] theorem evaluateParty_players (p : PartyIx) : (evaluateParty p s).players = s.players := by
  unfold evaluateParty
  split
  · simp only [hand_players, raiseIf_players]
  · rfl
@[simp] theorem evaluateParty_routes (p : PartyIx) : (evaluateParty p s).routes = s.routes := by
  unfold evaluateParty
  split
  · simp only [hand_routes, raiseIf_routes]
  · rfl
@[simp] theorem evaluateParty_meter (p : PartyIx) : (evaluateParty p s).meter = s.meter := by
  unfold evaluateParty
  split
  · simp only [hand_meter, raiseIf_meter]
  · rfl
@[simp] theorem evaluateParty_points (p : PartyIx) : (evaluateParty p s).points = s.points := by
  unfold evaluateParty
  split
  · simp only [hand_points, raiseIf_points]
  · rfl
@[simp] theorem evaluateParty_sups (p : PartyIx) : (evaluateParty p s).sups = s.sups := by
  unfold evaluateParty
  split
  · simp only [hand_sups, raiseIf_sups]
  · rfl
@[simp] theorem evaluateParty_gpis (p : PartyIx) : (evaluateParty p s).gpis = s.gpis := by
  unfold evaluateParty
  split
  · simp only [hand_gpis, raiseIf_gpis]
  · rfl
@[simp] theorem evaluateParty_cells (p : PartyIx) : (evaluateParty p s).cells = s.cells := by
  unfold evaluateParty
  split
  · simp only [hand_cells, raiseIf_cells]
  · rfl
@[simp] theorem evaluateParty_gpos (p : PartyIx) : (evaluateParty p s).gpos = s.gpos := by
  unfold evaluateParty
  split
  · simp only [hand_gpos, raiseIf_gpos]
  · rfl
@[simp] theorem evaluateParty_clock (p : PartyIx) : (evaluateParty p s).clock = s.clock := by
  unfold evaluateParty
  split
  · simp only [hand_clock, raiseIf_clock]
  · rfl
@[simp] theorem evaluateParty_pending (p : PartyIx) : (evaluateParty p s).pending = s.pending := by
  unfold evaluateParty
  split
  · simp only [hand_pending, raiseIf_pending]
  · rfl

/-! ## playerPeriod -/

@[simp] theorem playerPeriod_inReset (j : PlayerIx) : (playerPeriod j s).inReset = s.inReset := by simp only [playerPeriod, raiseIf_inReset]
@[simp] theorem playerPeriod_parties (j : PlayerIx) : (playerPeriod j s).parties = s.parties := by simp only [playerPeriod, raiseIf_parties]
@[simp] theorem playerPeriod_lines (j : PlayerIx) : (playerPeriod j s).lines = s.lines := by simp only [playerPeriod, raiseIf_lines]
@[simp] theorem playerPeriod_links (j : PlayerIx) : (playerPeriod j s).links = s.links := by simp only [playerPeriod, raiseIf_links]
@[simp] theorem playerPeriod_dropCode (j : PlayerIx) : (playerPeriod j s).dropCode = s.dropCode := by simp only [playerPeriod, raiseIf_dropCode]
@[simp] theorem playerPeriod_mix (j : PlayerIx) : (playerPeriod j s).mix = s.mix := by simp only [playerPeriod, raiseIf_mix]
@[simp] theorem playerPeriod_partyMix (j : PlayerIx) : (playerPeriod j s).partyMix = s.partyMix := by simp only [playerPeriod, raiseIf_partyMix]
@[simp] theorem playerPeriod_formed (j : PlayerIx) : (playerPeriod j s).formed = s.formed := by simp only [playerPeriod, raiseIf_formed]
@[simp] theorem playerPeriod_formedBefore (j : PlayerIx) : (playerPeriod j s).formedBefore = s.formedBefore := by simp only [playerPeriod, raiseIf_formedBefore]
@[simp] theorem playerPeriod_sent (j : PlayerIx) : (playerPeriod j s).sent = s.sent := by simp only [playerPeriod, raiseIf_sent]
@[simp] theorem playerPeriod_keys (j : PlayerIx) : (playerPeriod j s).keys = s.keys := by simp only [playerPeriod, raiseIf_keys]
@[simp] theorem playerPeriod_foldBacks (j : PlayerIx) : (playerPeriod j s).foldBacks = s.foldBacks := by simp only [playerPeriod, raiseIf_foldBacks]
@[simp] theorem playerPeriod_memSize (j : PlayerIx) : (playerPeriod j s).memSize = s.memSize := by simp only [playerPeriod, raiseIf_memSize]
@[simp] theorem playerPeriod_memInUse (j : PlayerIx) : (playerPeriod j s).memInUse = s.memInUse := by simp only [playerPeriod, raiseIf_memInUse]
@[simp] theorem playerPeriod_delays (j : PlayerIx) : (playerPeriod j s).delays = s.delays := by simp only [playerPeriod, raiseIf_delays]
@[simp] theorem playerPeriod_sram (j : PlayerIx) : (playerPeriod j s).sram = s.sram := by simp only [playerPeriod, raiseIf_sram]
@[simp] theorem playerPeriod_writers (j : PlayerIx) : (playerPeriod j s).writers = s.writers := by simp only [playerPeriod, raiseIf_writers]
@[simp] theorem playerPeriod_memPort (j : PlayerIx) : (playerPeriod j s).memPort = s.memPort := by simp only [playerPeriod, raiseIf_memPort]
@[simp] theorem playerPeriod_steps (j : PlayerIx) : (playerPeriod j s).steps = s.steps := by simp only [playerPeriod, raiseIf_steps]
@[simp] theorem playerPeriod_pitches (j : PlayerIx) : (playerPeriod j s).pitches = s.pitches := by simp only [playerPeriod, raiseIf_pitches]
@[simp] theorem playerPeriod_routes (j : PlayerIx) : (playerPeriod j s).routes = s.routes := by simp only [playerPeriod, raiseIf_routes]
@[simp] theorem playerPeriod_meter (j : PlayerIx) : (playerPeriod j s).meter = s.meter := by simp only [playerPeriod, raiseIf_meter]
@[simp] theorem playerPeriod_points (j : PlayerIx) : (playerPeriod j s).points = s.points := by simp only [playerPeriod, raiseIf_points]
@[simp] theorem playerPeriod_sups (j : PlayerIx) : (playerPeriod j s).sups = s.sups := by simp only [playerPeriod, raiseIf_sups]
@[simp] theorem playerPeriod_gpis (j : PlayerIx) : (playerPeriod j s).gpis = s.gpis := by simp only [playerPeriod, raiseIf_gpis]
@[simp] theorem playerPeriod_cells (j : PlayerIx) : (playerPeriod j s).cells = s.cells := by simp only [playerPeriod, raiseIf_cells]
@[simp] theorem playerPeriod_gpos (j : PlayerIx) : (playerPeriod j s).gpos = s.gpos := by simp only [playerPeriod, raiseIf_gpos]
@[simp] theorem playerPeriod_clock (j : PlayerIx) : (playerPeriod j s).clock = s.clock := by simp only [playerPeriod, raiseIf_clock]
@[simp] theorem playerPeriod_handed (j : PlayerIx) : (playerPeriod j s).handed = s.handed := by simp only [playerPeriod, raiseIf_handed]
@[simp] theorem playerPeriod_pending (j : PlayerIx) : (playerPeriod j s).pending = s.pending := by simp only [playerPeriod, raiseIf_pending]

/-! ## beginMeasurement -/

@[simp] theorem beginMeasurement_inReset : (beginMeasurement s).inReset = s.inReset := by simp only [beginMeasurement]
@[simp] theorem beginMeasurement_parties : (beginMeasurement s).parties = s.parties := by simp only [beginMeasurement]
@[simp] theorem beginMeasurement_lines : (beginMeasurement s).lines = s.lines := by simp only [beginMeasurement]
@[simp] theorem beginMeasurement_links : (beginMeasurement s).links = s.links := by simp only [beginMeasurement]
@[simp] theorem beginMeasurement_dropCode : (beginMeasurement s).dropCode = s.dropCode := by simp only [beginMeasurement]
@[simp] theorem beginMeasurement_mix : (beginMeasurement s).mix = s.mix := by simp only [beginMeasurement]
@[simp] theorem beginMeasurement_partyMix : (beginMeasurement s).partyMix = s.partyMix := by simp only [beginMeasurement]
@[simp] theorem beginMeasurement_formed : (beginMeasurement s).formed = s.formed := by simp only [beginMeasurement]
@[simp] theorem beginMeasurement_formedBefore : (beginMeasurement s).formedBefore = s.formedBefore := by simp only [beginMeasurement]
@[simp] theorem beginMeasurement_sent : (beginMeasurement s).sent = s.sent := by simp only [beginMeasurement]
@[simp] theorem beginMeasurement_keys : (beginMeasurement s).keys = s.keys := by simp only [beginMeasurement]
@[simp] theorem beginMeasurement_foldBacks : (beginMeasurement s).foldBacks = s.foldBacks := by simp only [beginMeasurement]
@[simp] theorem beginMeasurement_memSize : (beginMeasurement s).memSize = s.memSize := by simp only [beginMeasurement]
@[simp] theorem beginMeasurement_memInUse : (beginMeasurement s).memInUse = s.memInUse := by simp only [beginMeasurement]
@[simp] theorem beginMeasurement_delays : (beginMeasurement s).delays = s.delays := by simp only [beginMeasurement]
@[simp] theorem beginMeasurement_sram : (beginMeasurement s).sram = s.sram := by simp only [beginMeasurement]
@[simp] theorem beginMeasurement_writers : (beginMeasurement s).writers = s.writers := by simp only [beginMeasurement]
@[simp] theorem beginMeasurement_memPort : (beginMeasurement s).memPort = s.memPort := by simp only [beginMeasurement]
@[simp] theorem beginMeasurement_steps : (beginMeasurement s).steps = s.steps := by simp only [beginMeasurement]
@[simp] theorem beginMeasurement_pitches : (beginMeasurement s).pitches = s.pitches := by simp only [beginMeasurement]
@[simp] theorem beginMeasurement_players : (beginMeasurement s).players = s.players := by simp only [beginMeasurement]
@[simp] theorem beginMeasurement_routes : (beginMeasurement s).routes = s.routes := by simp only [beginMeasurement]
@[simp] theorem beginMeasurement_sups : (beginMeasurement s).sups = s.sups := by simp only [beginMeasurement]
@[simp] theorem beginMeasurement_gpis : (beginMeasurement s).gpis = s.gpis := by simp only [beginMeasurement]
@[simp] theorem beginMeasurement_cells : (beginMeasurement s).cells = s.cells := by simp only [beginMeasurement]
@[simp] theorem beginMeasurement_gpos : (beginMeasurement s).gpos = s.gpos := by simp only [beginMeasurement]
@[simp] theorem beginMeasurement_ports : (beginMeasurement s).ports = s.ports := by simp only [beginMeasurement]
@[simp] theorem beginMeasurement_clock : (beginMeasurement s).clock = s.clock := by simp only [beginMeasurement]
@[simp] theorem beginMeasurement_handed : (beginMeasurement s).handed = s.handed := by simp only [beginMeasurement]
@[simp] theorem beginMeasurement_pending : (beginMeasurement s).pending = s.pending := by simp only [beginMeasurement]

/-! ## completeMeasurement -/

@[simp] theorem completeMeasurement_inReset : (completeMeasurement s).inReset = s.inReset := by simp only [completeMeasurement, raiseIf_inReset]
@[simp] theorem completeMeasurement_parties : (completeMeasurement s).parties = s.parties := by simp only [completeMeasurement, raiseIf_parties]
@[simp] theorem completeMeasurement_lines : (completeMeasurement s).lines = s.lines := by simp only [completeMeasurement, raiseIf_lines]
@[simp] theorem completeMeasurement_links : (completeMeasurement s).links = s.links := by simp only [completeMeasurement, raiseIf_links]
@[simp] theorem completeMeasurement_dropCode : (completeMeasurement s).dropCode = s.dropCode := by simp only [completeMeasurement, raiseIf_dropCode]
@[simp] theorem completeMeasurement_mix : (completeMeasurement s).mix = s.mix := by simp only [completeMeasurement, raiseIf_mix]
@[simp] theorem completeMeasurement_partyMix : (completeMeasurement s).partyMix = s.partyMix := by simp only [completeMeasurement, raiseIf_partyMix]
@[simp] theorem completeMeasurement_formed : (completeMeasurement s).formed = s.formed := by simp only [completeMeasurement, raiseIf_formed]
@[simp] theorem completeMeasurement_formedBefore : (completeMeasurement s).formedBefore = s.formedBefore := by simp only [completeMeasurement, raiseIf_formedBefore]
@[simp] theorem completeMeasurement_sent : (completeMeasurement s).sent = s.sent := by simp only [completeMeasurement, raiseIf_sent]
@[simp] theorem completeMeasurement_keys : (completeMeasurement s).keys = s.keys := by simp only [completeMeasurement, raiseIf_keys]
@[simp] theorem completeMeasurement_foldBacks : (completeMeasurement s).foldBacks = s.foldBacks := by simp only [completeMeasurement, raiseIf_foldBacks]
@[simp] theorem completeMeasurement_memSize : (completeMeasurement s).memSize = s.memSize := by simp only [completeMeasurement, raiseIf_memSize]
@[simp] theorem completeMeasurement_memInUse : (completeMeasurement s).memInUse = s.memInUse := by simp only [completeMeasurement, raiseIf_memInUse]
@[simp] theorem completeMeasurement_delays : (completeMeasurement s).delays = s.delays := by simp only [completeMeasurement, raiseIf_delays]
@[simp] theorem completeMeasurement_sram : (completeMeasurement s).sram = s.sram := by simp only [completeMeasurement, raiseIf_sram]
@[simp] theorem completeMeasurement_writers : (completeMeasurement s).writers = s.writers := by simp only [completeMeasurement, raiseIf_writers]
@[simp] theorem completeMeasurement_memPort : (completeMeasurement s).memPort = s.memPort := by simp only [completeMeasurement, raiseIf_memPort]
@[simp] theorem completeMeasurement_steps : (completeMeasurement s).steps = s.steps := by simp only [completeMeasurement, raiseIf_steps]
@[simp] theorem completeMeasurement_pitches : (completeMeasurement s).pitches = s.pitches := by simp only [completeMeasurement, raiseIf_pitches]
@[simp] theorem completeMeasurement_players : (completeMeasurement s).players = s.players := by simp only [completeMeasurement, raiseIf_players]
@[simp] theorem completeMeasurement_routes : (completeMeasurement s).routes = s.routes := by simp only [completeMeasurement, raiseIf_routes]
@[simp] theorem completeMeasurement_gpis : (completeMeasurement s).gpis = s.gpis := by simp only [completeMeasurement, raiseIf_gpis]
@[simp] theorem completeMeasurement_cells : (completeMeasurement s).cells = s.cells := by simp only [completeMeasurement, raiseIf_cells]
@[simp] theorem completeMeasurement_gpos : (completeMeasurement s).gpos = s.gpos := by simp only [completeMeasurement, raiseIf_gpos]
@[simp] theorem completeMeasurement_clock : (completeMeasurement s).clock = s.clock := by simp only [completeMeasurement, raiseIf_clock]
@[simp] theorem completeMeasurement_handed : (completeMeasurement s).handed = s.handed := by simp only [completeMeasurement, raiseIf_handed]
@[simp] theorem completeMeasurement_pending : (completeMeasurement s).pending = s.pending := by simp only [completeMeasurement, raiseIf_pending]

/-! ## stopMetering -/

@[simp] theorem stopMetering_inReset : (stopMetering s).inReset = s.inReset := by simp only [stopMetering]
@[simp] theorem stopMetering_parties : (stopMetering s).parties = s.parties := by simp only [stopMetering]
@[simp] theorem stopMetering_lines : (stopMetering s).lines = s.lines := by simp only [stopMetering]
@[simp] theorem stopMetering_links : (stopMetering s).links = s.links := by simp only [stopMetering]
@[simp] theorem stopMetering_dropCode : (stopMetering s).dropCode = s.dropCode := by simp only [stopMetering]
@[simp] theorem stopMetering_mix : (stopMetering s).mix = s.mix := by simp only [stopMetering]
@[simp] theorem stopMetering_partyMix : (stopMetering s).partyMix = s.partyMix := by simp only [stopMetering]
@[simp] theorem stopMetering_formed : (stopMetering s).formed = s.formed := by simp only [stopMetering]
@[simp] theorem stopMetering_formedBefore : (stopMetering s).formedBefore = s.formedBefore := by simp only [stopMetering]
@[simp] theorem stopMetering_sent : (stopMetering s).sent = s.sent := by simp only [stopMetering]
@[simp] theorem stopMetering_keys : (stopMetering s).keys = s.keys := by simp only [stopMetering]
@[simp] theorem stopMetering_foldBacks : (stopMetering s).foldBacks = s.foldBacks := by simp only [stopMetering]
@[simp] theorem stopMetering_memSize : (stopMetering s).memSize = s.memSize := by simp only [stopMetering]
@[simp] theorem stopMetering_memInUse : (stopMetering s).memInUse = s.memInUse := by simp only [stopMetering]
@[simp] theorem stopMetering_delays : (stopMetering s).delays = s.delays := by simp only [stopMetering]
@[simp] theorem stopMetering_sram : (stopMetering s).sram = s.sram := by simp only [stopMetering]
@[simp] theorem stopMetering_writers : (stopMetering s).writers = s.writers := by simp only [stopMetering]
@[simp] theorem stopMetering_memPort : (stopMetering s).memPort = s.memPort := by simp only [stopMetering]
@[simp] theorem stopMetering_steps : (stopMetering s).steps = s.steps := by simp only [stopMetering]
@[simp] theorem stopMetering_pitches : (stopMetering s).pitches = s.pitches := by simp only [stopMetering]
@[simp] theorem stopMetering_players : (stopMetering s).players = s.players := by simp only [stopMetering]
@[simp] theorem stopMetering_routes : (stopMetering s).routes = s.routes := by simp only [stopMetering]
@[simp] theorem stopMetering_points : (stopMetering s).points = s.points := by simp only [stopMetering]
@[simp] theorem stopMetering_sups : (stopMetering s).sups = s.sups := by simp only [stopMetering]
@[simp] theorem stopMetering_gpis : (stopMetering s).gpis = s.gpis := by simp only [stopMetering]
@[simp] theorem stopMetering_cells : (stopMetering s).cells = s.cells := by simp only [stopMetering]
@[simp] theorem stopMetering_gpos : (stopMetering s).gpos = s.gpos := by simp only [stopMetering]
@[simp] theorem stopMetering_ports : (stopMetering s).ports = s.ports := by simp only [stopMetering]
@[simp] theorem stopMetering_clock : (stopMetering s).clock = s.clock := by simp only [stopMetering]
@[simp] theorem stopMetering_handed : (stopMetering s).handed = s.handed := by simp only [stopMetering]
@[simp] theorem stopMetering_pending : (stopMetering s).pending = s.pending := by simp only [stopMetering]

/-! ## beginWait -/

@[simp] theorem beginWait_inReset : (beginWait s).inReset = s.inReset := by simp only [beginWait]
@[simp] theorem beginWait_parties : (beginWait s).parties = s.parties := by simp only [beginWait]
@[simp] theorem beginWait_lines : (beginWait s).lines = s.lines := by simp only [beginWait]
@[simp] theorem beginWait_links : (beginWait s).links = s.links := by simp only [beginWait]
@[simp] theorem beginWait_dropCode : (beginWait s).dropCode = s.dropCode := by simp only [beginWait]
@[simp] theorem beginWait_mix : (beginWait s).mix = s.mix := by simp only [beginWait]
@[simp] theorem beginWait_partyMix : (beginWait s).partyMix = s.partyMix := by simp only [beginWait]
@[simp] theorem beginWait_formed : (beginWait s).formed = s.formed := by simp only [beginWait]
@[simp] theorem beginWait_formedBefore : (beginWait s).formedBefore = s.formedBefore := by simp only [beginWait]
@[simp] theorem beginWait_sent : (beginWait s).sent = s.sent := by simp only [beginWait]
@[simp] theorem beginWait_keys : (beginWait s).keys = s.keys := by simp only [beginWait]
@[simp] theorem beginWait_foldBacks : (beginWait s).foldBacks = s.foldBacks := by simp only [beginWait]
@[simp] theorem beginWait_memSize : (beginWait s).memSize = s.memSize := by simp only [beginWait]
@[simp] theorem beginWait_memInUse : (beginWait s).memInUse = s.memInUse := by simp only [beginWait]
@[simp] theorem beginWait_delays : (beginWait s).delays = s.delays := by simp only [beginWait]
@[simp] theorem beginWait_sram : (beginWait s).sram = s.sram := by simp only [beginWait]
@[simp] theorem beginWait_writers : (beginWait s).writers = s.writers := by simp only [beginWait]
@[simp] theorem beginWait_memPort : (beginWait s).memPort = s.memPort := by simp only [beginWait]
@[simp] theorem beginWait_steps : (beginWait s).steps = s.steps := by simp only [beginWait]
@[simp] theorem beginWait_pitches : (beginWait s).pitches = s.pitches := by simp only [beginWait]
@[simp] theorem beginWait_players : (beginWait s).players = s.players := by simp only [beginWait]
@[simp] theorem beginWait_routes : (beginWait s).routes = s.routes := by simp only [beginWait]
@[simp] theorem beginWait_points : (beginWait s).points = s.points := by simp only [beginWait]
@[simp] theorem beginWait_sups : (beginWait s).sups = s.sups := by simp only [beginWait]
@[simp] theorem beginWait_gpis : (beginWait s).gpis = s.gpis := by simp only [beginWait]
@[simp] theorem beginWait_cells : (beginWait s).cells = s.cells := by simp only [beginWait]
@[simp] theorem beginWait_gpos : (beginWait s).gpos = s.gpos := by simp only [beginWait]
@[simp] theorem beginWait_ports : (beginWait s).ports = s.ports := by simp only [beginWait]
@[simp] theorem beginWait_clock : (beginWait s).clock = s.clock := by simp only [beginWait]
@[simp] theorem beginWait_handed : (beginWait s).handed = s.handed := by simp only [beginWait]
@[simp] theorem beginWait_pending : (beginWait s).pending = s.pending := by simp only [beginWait]

/-! ## countPeriod -/

@[simp] theorem countPeriod_inReset : (countPeriod s).inReset = s.inReset := by simp only [countPeriod]
@[simp] theorem countPeriod_parties : (countPeriod s).parties = s.parties := by simp only [countPeriod]
@[simp] theorem countPeriod_lines : (countPeriod s).lines = s.lines := by simp only [countPeriod]
@[simp] theorem countPeriod_links : (countPeriod s).links = s.links := by simp only [countPeriod]
@[simp] theorem countPeriod_dropCode : (countPeriod s).dropCode = s.dropCode := by simp only [countPeriod]
@[simp] theorem countPeriod_mix : (countPeriod s).mix = s.mix := by simp only [countPeriod]
@[simp] theorem countPeriod_partyMix : (countPeriod s).partyMix = s.partyMix := by simp only [countPeriod]
@[simp] theorem countPeriod_formed : (countPeriod s).formed = s.formed := by simp only [countPeriod]
@[simp] theorem countPeriod_formedBefore : (countPeriod s).formedBefore = s.formedBefore := by simp only [countPeriod]
@[simp] theorem countPeriod_sent : (countPeriod s).sent = s.sent := by simp only [countPeriod]
@[simp] theorem countPeriod_keys : (countPeriod s).keys = s.keys := by simp only [countPeriod]
@[simp] theorem countPeriod_foldBacks : (countPeriod s).foldBacks = s.foldBacks := by simp only [countPeriod]
@[simp] theorem countPeriod_memSize : (countPeriod s).memSize = s.memSize := by simp only [countPeriod]
@[simp] theorem countPeriod_memInUse : (countPeriod s).memInUse = s.memInUse := by simp only [countPeriod]
@[simp] theorem countPeriod_delays : (countPeriod s).delays = s.delays := by simp only [countPeriod]
@[simp] theorem countPeriod_sram : (countPeriod s).sram = s.sram := by simp only [countPeriod]
@[simp] theorem countPeriod_writers : (countPeriod s).writers = s.writers := by simp only [countPeriod]
@[simp] theorem countPeriod_memPort : (countPeriod s).memPort = s.memPort := by simp only [countPeriod]
@[simp] theorem countPeriod_steps : (countPeriod s).steps = s.steps := by simp only [countPeriod]
@[simp] theorem countPeriod_pitches : (countPeriod s).pitches = s.pitches := by simp only [countPeriod]
@[simp] theorem countPeriod_players : (countPeriod s).players = s.players := by simp only [countPeriod]
@[simp] theorem countPeriod_routes : (countPeriod s).routes = s.routes := by simp only [countPeriod]
@[simp] theorem countPeriod_points : (countPeriod s).points = s.points := by simp only [countPeriod]
@[simp] theorem countPeriod_sups : (countPeriod s).sups = s.sups := by simp only [countPeriod]
@[simp] theorem countPeriod_gpis : (countPeriod s).gpis = s.gpis := by simp only [countPeriod]
@[simp] theorem countPeriod_cells : (countPeriod s).cells = s.cells := by simp only [countPeriod]
@[simp] theorem countPeriod_gpos : (countPeriod s).gpos = s.gpos := by simp only [countPeriod]
@[simp] theorem countPeriod_ports : (countPeriod s).ports = s.ports := by simp only [countPeriod]
@[simp] theorem countPeriod_clock : (countPeriod s).clock = s.clock := by simp only [countPeriod]
@[simp] theorem countPeriod_handed : (countPeriod s).handed = s.handed := by simp only [countPeriod]
@[simp] theorem countPeriod_pending : (countPeriod s).pending = s.pending := by simp only [countPeriod]

/-! ## afterMeasurement -/

@[simp] theorem afterMeasurement_inReset : (afterMeasurement s).inReset = s.inReset := by unfold afterMeasurement; split <;> simp only [stopMetering_inReset, beginMeasurement_inReset, beginWait_inReset]
@[simp] theorem afterMeasurement_parties : (afterMeasurement s).parties = s.parties := by unfold afterMeasurement; split <;> simp only [stopMetering_parties, beginMeasurement_parties, beginWait_parties]
@[simp] theorem afterMeasurement_lines : (afterMeasurement s).lines = s.lines := by unfold afterMeasurement; split <;> simp only [stopMetering_lines, beginMeasurement_lines, beginWait_lines]
@[simp] theorem afterMeasurement_links : (afterMeasurement s).links = s.links := by unfold afterMeasurement; split <;> simp only [stopMetering_links, beginMeasurement_links, beginWait_links]
@[simp] theorem afterMeasurement_dropCode : (afterMeasurement s).dropCode = s.dropCode := by unfold afterMeasurement; split <;> simp only [stopMetering_dropCode, beginMeasurement_dropCode, beginWait_dropCode]
@[simp] theorem afterMeasurement_mix : (afterMeasurement s).mix = s.mix := by unfold afterMeasurement; split <;> simp only [stopMetering_mix, beginMeasurement_mix, beginWait_mix]
@[simp] theorem afterMeasurement_partyMix : (afterMeasurement s).partyMix = s.partyMix := by unfold afterMeasurement; split <;> simp only [stopMetering_partyMix, beginMeasurement_partyMix, beginWait_partyMix]
@[simp] theorem afterMeasurement_formed : (afterMeasurement s).formed = s.formed := by unfold afterMeasurement; split <;> simp only [stopMetering_formed, beginMeasurement_formed, beginWait_formed]
@[simp] theorem afterMeasurement_formedBefore : (afterMeasurement s).formedBefore = s.formedBefore := by unfold afterMeasurement; split <;> simp only [stopMetering_formedBefore, beginMeasurement_formedBefore, beginWait_formedBefore]
@[simp] theorem afterMeasurement_sent : (afterMeasurement s).sent = s.sent := by unfold afterMeasurement; split <;> simp only [stopMetering_sent, beginMeasurement_sent, beginWait_sent]
@[simp] theorem afterMeasurement_keys : (afterMeasurement s).keys = s.keys := by unfold afterMeasurement; split <;> simp only [stopMetering_keys, beginMeasurement_keys, beginWait_keys]
@[simp] theorem afterMeasurement_foldBacks : (afterMeasurement s).foldBacks = s.foldBacks := by unfold afterMeasurement; split <;> simp only [stopMetering_foldBacks, beginMeasurement_foldBacks, beginWait_foldBacks]
@[simp] theorem afterMeasurement_memSize : (afterMeasurement s).memSize = s.memSize := by unfold afterMeasurement; split <;> simp only [stopMetering_memSize, beginMeasurement_memSize, beginWait_memSize]
@[simp] theorem afterMeasurement_memInUse : (afterMeasurement s).memInUse = s.memInUse := by unfold afterMeasurement; split <;> simp only [stopMetering_memInUse, beginMeasurement_memInUse, beginWait_memInUse]
@[simp] theorem afterMeasurement_delays : (afterMeasurement s).delays = s.delays := by unfold afterMeasurement; split <;> simp only [stopMetering_delays, beginMeasurement_delays, beginWait_delays]
@[simp] theorem afterMeasurement_sram : (afterMeasurement s).sram = s.sram := by unfold afterMeasurement; split <;> simp only [stopMetering_sram, beginMeasurement_sram, beginWait_sram]
@[simp] theorem afterMeasurement_writers : (afterMeasurement s).writers = s.writers := by unfold afterMeasurement; split <;> simp only [stopMetering_writers, beginMeasurement_writers, beginWait_writers]
@[simp] theorem afterMeasurement_memPort : (afterMeasurement s).memPort = s.memPort := by unfold afterMeasurement; split <;> simp only [stopMetering_memPort, beginMeasurement_memPort, beginWait_memPort]
@[simp] theorem afterMeasurement_steps : (afterMeasurement s).steps = s.steps := by unfold afterMeasurement; split <;> simp only [stopMetering_steps, beginMeasurement_steps, beginWait_steps]
@[simp] theorem afterMeasurement_pitches : (afterMeasurement s).pitches = s.pitches := by unfold afterMeasurement; split <;> simp only [stopMetering_pitches, beginMeasurement_pitches, beginWait_pitches]
@[simp] theorem afterMeasurement_players : (afterMeasurement s).players = s.players := by unfold afterMeasurement; split <;> simp only [stopMetering_players, beginMeasurement_players, beginWait_players]
@[simp] theorem afterMeasurement_routes : (afterMeasurement s).routes = s.routes := by unfold afterMeasurement; split <;> simp only [stopMetering_routes, beginMeasurement_routes, beginWait_routes]
@[simp] theorem afterMeasurement_sups : (afterMeasurement s).sups = s.sups := by unfold afterMeasurement; split <;> simp only [stopMetering_sups, beginMeasurement_sups, beginWait_sups]
@[simp] theorem afterMeasurement_gpis : (afterMeasurement s).gpis = s.gpis := by unfold afterMeasurement; split <;> simp only [stopMetering_gpis, beginMeasurement_gpis, beginWait_gpis]
@[simp] theorem afterMeasurement_cells : (afterMeasurement s).cells = s.cells := by unfold afterMeasurement; split <;> simp only [stopMetering_cells, beginMeasurement_cells, beginWait_cells]
@[simp] theorem afterMeasurement_gpos : (afterMeasurement s).gpos = s.gpos := by unfold afterMeasurement; split <;> simp only [stopMetering_gpos, beginMeasurement_gpos, beginWait_gpos]
@[simp] theorem afterMeasurement_ports : (afterMeasurement s).ports = s.ports := by unfold afterMeasurement; split <;> simp only [stopMetering_ports, beginMeasurement_ports, beginWait_ports]
@[simp] theorem afterMeasurement_clock : (afterMeasurement s).clock = s.clock := by unfold afterMeasurement; split <;> simp only [stopMetering_clock, beginMeasurement_clock, beginWait_clock]
@[simp] theorem afterMeasurement_handed : (afterMeasurement s).handed = s.handed := by unfold afterMeasurement; split <;> simp only [stopMetering_handed, beginMeasurement_handed, beginWait_handed]
@[simp] theorem afterMeasurement_pending : (afterMeasurement s).pending = s.pending := by unfold afterMeasurement; split <;> simp only [stopMetering_pending, beginMeasurement_pending, beginWait_pending]

/-! ## meterPeriod -/

@[simp] theorem meterPeriod_inReset : (meterPeriod s).inReset = s.inReset := by
  unfold meterPeriod
  repeat' split
  all_goals simp only [beginMeasurement_inReset, stopMetering_inReset, countPeriod_inReset, afterMeasurement_inReset, completeMeasurement_inReset]
@[simp] theorem meterPeriod_parties : (meterPeriod s).parties = s.parties := by
  unfold meterPeriod
  repeat' split
  all_goals simp only [beginMeasurement_parties, stopMetering_parties, countPeriod_parties, afterMeasurement_parties, completeMeasurement_parties]
@[simp] theorem meterPeriod_lines : (meterPeriod s).lines = s.lines := by
  unfold meterPeriod
  repeat' split
  all_goals simp only [beginMeasurement_lines, stopMetering_lines, countPeriod_lines, afterMeasurement_lines, completeMeasurement_lines]
@[simp] theorem meterPeriod_links : (meterPeriod s).links = s.links := by
  unfold meterPeriod
  repeat' split
  all_goals simp only [beginMeasurement_links, stopMetering_links, countPeriod_links, afterMeasurement_links, completeMeasurement_links]
@[simp] theorem meterPeriod_dropCode : (meterPeriod s).dropCode = s.dropCode := by
  unfold meterPeriod
  repeat' split
  all_goals simp only [beginMeasurement_dropCode, stopMetering_dropCode, countPeriod_dropCode, afterMeasurement_dropCode, completeMeasurement_dropCode]
@[simp] theorem meterPeriod_mix : (meterPeriod s).mix = s.mix := by
  unfold meterPeriod
  repeat' split
  all_goals simp only [beginMeasurement_mix, stopMetering_mix, countPeriod_mix, afterMeasurement_mix, completeMeasurement_mix]
@[simp] theorem meterPeriod_partyMix : (meterPeriod s).partyMix = s.partyMix := by
  unfold meterPeriod
  repeat' split
  all_goals simp only [beginMeasurement_partyMix, stopMetering_partyMix, countPeriod_partyMix, afterMeasurement_partyMix, completeMeasurement_partyMix]
@[simp] theorem meterPeriod_formed : (meterPeriod s).formed = s.formed := by
  unfold meterPeriod
  repeat' split
  all_goals simp only [beginMeasurement_formed, stopMetering_formed, countPeriod_formed, afterMeasurement_formed, completeMeasurement_formed]
@[simp] theorem meterPeriod_formedBefore : (meterPeriod s).formedBefore = s.formedBefore := by
  unfold meterPeriod
  repeat' split
  all_goals simp only [beginMeasurement_formedBefore, stopMetering_formedBefore, countPeriod_formedBefore, afterMeasurement_formedBefore, completeMeasurement_formedBefore]
@[simp] theorem meterPeriod_sent : (meterPeriod s).sent = s.sent := by
  unfold meterPeriod
  repeat' split
  all_goals simp only [beginMeasurement_sent, stopMetering_sent, countPeriod_sent, afterMeasurement_sent, completeMeasurement_sent]
@[simp] theorem meterPeriod_keys : (meterPeriod s).keys = s.keys := by
  unfold meterPeriod
  repeat' split
  all_goals simp only [beginMeasurement_keys, stopMetering_keys, countPeriod_keys, afterMeasurement_keys, completeMeasurement_keys]
@[simp] theorem meterPeriod_foldBacks : (meterPeriod s).foldBacks = s.foldBacks := by
  unfold meterPeriod
  repeat' split
  all_goals simp only [beginMeasurement_foldBacks, stopMetering_foldBacks, countPeriod_foldBacks, afterMeasurement_foldBacks, completeMeasurement_foldBacks]
@[simp] theorem meterPeriod_memSize : (meterPeriod s).memSize = s.memSize := by
  unfold meterPeriod
  repeat' split
  all_goals simp only [beginMeasurement_memSize, stopMetering_memSize, countPeriod_memSize, afterMeasurement_memSize, completeMeasurement_memSize]
@[simp] theorem meterPeriod_memInUse : (meterPeriod s).memInUse = s.memInUse := by
  unfold meterPeriod
  repeat' split
  all_goals simp only [beginMeasurement_memInUse, stopMetering_memInUse, countPeriod_memInUse, afterMeasurement_memInUse, completeMeasurement_memInUse]
@[simp] theorem meterPeriod_delays : (meterPeriod s).delays = s.delays := by
  unfold meterPeriod
  repeat' split
  all_goals simp only [beginMeasurement_delays, stopMetering_delays, countPeriod_delays, afterMeasurement_delays, completeMeasurement_delays]
@[simp] theorem meterPeriod_sram : (meterPeriod s).sram = s.sram := by
  unfold meterPeriod
  repeat' split
  all_goals simp only [beginMeasurement_sram, stopMetering_sram, countPeriod_sram, afterMeasurement_sram, completeMeasurement_sram]
@[simp] theorem meterPeriod_writers : (meterPeriod s).writers = s.writers := by
  unfold meterPeriod
  repeat' split
  all_goals simp only [beginMeasurement_writers, stopMetering_writers, countPeriod_writers, afterMeasurement_writers, completeMeasurement_writers]
@[simp] theorem meterPeriod_memPort : (meterPeriod s).memPort = s.memPort := by
  unfold meterPeriod
  repeat' split
  all_goals simp only [beginMeasurement_memPort, stopMetering_memPort, countPeriod_memPort, afterMeasurement_memPort, completeMeasurement_memPort]
@[simp] theorem meterPeriod_steps : (meterPeriod s).steps = s.steps := by
  unfold meterPeriod
  repeat' split
  all_goals simp only [beginMeasurement_steps, stopMetering_steps, countPeriod_steps, afterMeasurement_steps, completeMeasurement_steps]
@[simp] theorem meterPeriod_pitches : (meterPeriod s).pitches = s.pitches := by
  unfold meterPeriod
  repeat' split
  all_goals simp only [beginMeasurement_pitches, stopMetering_pitches, countPeriod_pitches, afterMeasurement_pitches, completeMeasurement_pitches]
@[simp] theorem meterPeriod_players : (meterPeriod s).players = s.players := by
  unfold meterPeriod
  repeat' split
  all_goals simp only [beginMeasurement_players, stopMetering_players, countPeriod_players, afterMeasurement_players, completeMeasurement_players]
@[simp] theorem meterPeriod_routes : (meterPeriod s).routes = s.routes := by
  unfold meterPeriod
  repeat' split
  all_goals simp only [beginMeasurement_routes, stopMetering_routes, countPeriod_routes, afterMeasurement_routes, completeMeasurement_routes]
@[simp] theorem meterPeriod_gpis : (meterPeriod s).gpis = s.gpis := by
  unfold meterPeriod
  repeat' split
  all_goals simp only [beginMeasurement_gpis, stopMetering_gpis, countPeriod_gpis, afterMeasurement_gpis, completeMeasurement_gpis]
@[simp] theorem meterPeriod_cells : (meterPeriod s).cells = s.cells := by
  unfold meterPeriod
  repeat' split
  all_goals simp only [beginMeasurement_cells, stopMetering_cells, countPeriod_cells, afterMeasurement_cells, completeMeasurement_cells]
@[simp] theorem meterPeriod_gpos : (meterPeriod s).gpos = s.gpos := by
  unfold meterPeriod
  repeat' split
  all_goals simp only [beginMeasurement_gpos, stopMetering_gpos, countPeriod_gpos, afterMeasurement_gpos, completeMeasurement_gpos]
@[simp] theorem meterPeriod_clock : (meterPeriod s).clock = s.clock := by
  unfold meterPeriod
  repeat' split
  all_goals simp only [beginMeasurement_clock, stopMetering_clock, countPeriod_clock, afterMeasurement_clock, completeMeasurement_clock]
@[simp] theorem meterPeriod_handed : (meterPeriod s).handed = s.handed := by
  unfold meterPeriod
  repeat' split
  all_goals simp only [beginMeasurement_handed, stopMetering_handed, countPeriod_handed, afterMeasurement_handed, completeMeasurement_handed]
@[simp] theorem meterPeriod_pending : (meterPeriod s).pending = s.pending := by
  unfold meterPeriod
  repeat' split
  all_goals simp only [beginMeasurement_pending, stopMetering_pending, countPeriod_pending, afterMeasurement_pending, completeMeasurement_pending]

/-! ## samplePins -/

@[simp] theorem samplePins_inReset (pins : Vector Bool 8) : (samplePins pins s).inReset = s.inReset := by simp only [samplePins, raiseIf_inReset]
@[simp] theorem samplePins_parties (pins : Vector Bool 8) : (samplePins pins s).parties = s.parties := by simp only [samplePins, raiseIf_parties]
@[simp] theorem samplePins_lines (pins : Vector Bool 8) : (samplePins pins s).lines = s.lines := by simp only [samplePins, raiseIf_lines]
@[simp] theorem samplePins_links (pins : Vector Bool 8) : (samplePins pins s).links = s.links := by simp only [samplePins, raiseIf_links]
@[simp] theorem samplePins_dropCode (pins : Vector Bool 8) : (samplePins pins s).dropCode = s.dropCode := by simp only [samplePins, raiseIf_dropCode]
@[simp] theorem samplePins_mix (pins : Vector Bool 8) : (samplePins pins s).mix = s.mix := by simp only [samplePins, raiseIf_mix]
@[simp] theorem samplePins_partyMix (pins : Vector Bool 8) : (samplePins pins s).partyMix = s.partyMix := by simp only [samplePins, raiseIf_partyMix]
@[simp] theorem samplePins_formed (pins : Vector Bool 8) : (samplePins pins s).formed = s.formed := by simp only [samplePins, raiseIf_formed]
@[simp] theorem samplePins_formedBefore (pins : Vector Bool 8) : (samplePins pins s).formedBefore = s.formedBefore := by simp only [samplePins, raiseIf_formedBefore]
@[simp] theorem samplePins_sent (pins : Vector Bool 8) : (samplePins pins s).sent = s.sent := by simp only [samplePins, raiseIf_sent]
@[simp] theorem samplePins_keys (pins : Vector Bool 8) : (samplePins pins s).keys = s.keys := by simp only [samplePins, raiseIf_keys]
@[simp] theorem samplePins_foldBacks (pins : Vector Bool 8) : (samplePins pins s).foldBacks = s.foldBacks := by simp only [samplePins, raiseIf_foldBacks]
@[simp] theorem samplePins_memSize (pins : Vector Bool 8) : (samplePins pins s).memSize = s.memSize := by simp only [samplePins, raiseIf_memSize]
@[simp] theorem samplePins_memInUse (pins : Vector Bool 8) : (samplePins pins s).memInUse = s.memInUse := by simp only [samplePins, raiseIf_memInUse]
@[simp] theorem samplePins_delays (pins : Vector Bool 8) : (samplePins pins s).delays = s.delays := by simp only [samplePins, raiseIf_delays]
@[simp] theorem samplePins_sram (pins : Vector Bool 8) : (samplePins pins s).sram = s.sram := by simp only [samplePins, raiseIf_sram]
@[simp] theorem samplePins_writers (pins : Vector Bool 8) : (samplePins pins s).writers = s.writers := by simp only [samplePins, raiseIf_writers]
@[simp] theorem samplePins_memPort (pins : Vector Bool 8) : (samplePins pins s).memPort = s.memPort := by simp only [samplePins, raiseIf_memPort]
@[simp] theorem samplePins_steps (pins : Vector Bool 8) : (samplePins pins s).steps = s.steps := by simp only [samplePins, raiseIf_steps]
@[simp] theorem samplePins_pitches (pins : Vector Bool 8) : (samplePins pins s).pitches = s.pitches := by simp only [samplePins, raiseIf_pitches]
@[simp] theorem samplePins_players (pins : Vector Bool 8) : (samplePins pins s).players = s.players := by simp only [samplePins, raiseIf_players]
@[simp] theorem samplePins_routes (pins : Vector Bool 8) : (samplePins pins s).routes = s.routes := by simp only [samplePins, raiseIf_routes]
@[simp] theorem samplePins_meter (pins : Vector Bool 8) : (samplePins pins s).meter = s.meter := by simp only [samplePins, raiseIf_meter]
@[simp] theorem samplePins_points (pins : Vector Bool 8) : (samplePins pins s).points = s.points := by simp only [samplePins, raiseIf_points]
@[simp] theorem samplePins_sups (pins : Vector Bool 8) : (samplePins pins s).sups = s.sups := by simp only [samplePins, raiseIf_sups]
@[simp] theorem samplePins_cells (pins : Vector Bool 8) : (samplePins pins s).cells = s.cells := by simp only [samplePins, raiseIf_cells]
@[simp] theorem samplePins_gpos (pins : Vector Bool 8) : (samplePins pins s).gpos = s.gpos := by simp only [samplePins, raiseIf_gpos]
@[simp] theorem samplePins_clock (pins : Vector Bool 8) : (samplePins pins s).clock = s.clock := by simp only [samplePins, raiseIf_clock]
@[simp] theorem samplePins_handed (pins : Vector Bool 8) : (samplePins pins s).handed = s.handed := by simp only [samplePins, raiseIf_handed]
@[simp] theorem samplePins_pending (pins : Vector Bool 8) : (samplePins pins s).pending = s.pending := by simp only [samplePins, raiseIf_pending]

/-! ## evaluateCells -/

@[simp] theorem evaluateCells_inReset : (evaluateCells s).inReset = s.inReset := by simp only [evaluateCells, hand_inReset]
@[simp] theorem evaluateCells_parties : (evaluateCells s).parties = s.parties := by simp only [evaluateCells, hand_parties]
@[simp] theorem evaluateCells_lines : (evaluateCells s).lines = s.lines := by simp only [evaluateCells, hand_lines]
@[simp] theorem evaluateCells_links : (evaluateCells s).links = s.links := by simp only [evaluateCells, hand_links]
@[simp] theorem evaluateCells_dropCode : (evaluateCells s).dropCode = s.dropCode := by simp only [evaluateCells, hand_dropCode]
@[simp] theorem evaluateCells_mix : (evaluateCells s).mix = s.mix := by simp only [evaluateCells, hand_mix]
@[simp] theorem evaluateCells_partyMix : (evaluateCells s).partyMix = s.partyMix := by simp only [evaluateCells, hand_partyMix]
@[simp] theorem evaluateCells_formed : (evaluateCells s).formed = s.formed := by simp only [evaluateCells, hand_formed]
@[simp] theorem evaluateCells_formedBefore : (evaluateCells s).formedBefore = s.formedBefore := by simp only [evaluateCells, hand_formedBefore]
@[simp] theorem evaluateCells_sent : (evaluateCells s).sent = s.sent := by simp only [evaluateCells, hand_sent]
@[simp] theorem evaluateCells_keys : (evaluateCells s).keys = s.keys := by simp only [evaluateCells, hand_keys]
@[simp] theorem evaluateCells_foldBacks : (evaluateCells s).foldBacks = s.foldBacks := by simp only [evaluateCells, hand_foldBacks]
@[simp] theorem evaluateCells_memSize : (evaluateCells s).memSize = s.memSize := by simp only [evaluateCells, hand_memSize]
@[simp] theorem evaluateCells_memInUse : (evaluateCells s).memInUse = s.memInUse := by simp only [evaluateCells, hand_memInUse]
@[simp] theorem evaluateCells_delays : (evaluateCells s).delays = s.delays := by simp only [evaluateCells, hand_delays]
@[simp] theorem evaluateCells_sram : (evaluateCells s).sram = s.sram := by simp only [evaluateCells, hand_sram]
@[simp] theorem evaluateCells_writers : (evaluateCells s).writers = s.writers := by simp only [evaluateCells, hand_writers]
@[simp] theorem evaluateCells_memPort : (evaluateCells s).memPort = s.memPort := by simp only [evaluateCells, hand_memPort]
@[simp] theorem evaluateCells_steps : (evaluateCells s).steps = s.steps := by simp only [evaluateCells, hand_steps]
@[simp] theorem evaluateCells_pitches : (evaluateCells s).pitches = s.pitches := by simp only [evaluateCells, hand_pitches]
@[simp] theorem evaluateCells_players : (evaluateCells s).players = s.players := by simp only [evaluateCells, hand_players]
@[simp] theorem evaluateCells_routes : (evaluateCells s).routes = s.routes := by simp only [evaluateCells, hand_routes]
@[simp] theorem evaluateCells_meter : (evaluateCells s).meter = s.meter := by simp only [evaluateCells, hand_meter]
@[simp] theorem evaluateCells_points : (evaluateCells s).points = s.points := by simp only [evaluateCells, hand_points]
@[simp] theorem evaluateCells_sups : (evaluateCells s).sups = s.sups := by simp only [evaluateCells, hand_sups]
@[simp] theorem evaluateCells_gpis : (evaluateCells s).gpis = s.gpis := by simp only [evaluateCells, hand_gpis]
@[simp] theorem evaluateCells_gpos : (evaluateCells s).gpos = s.gpos := by simp only [evaluateCells, hand_gpos]
@[simp] theorem evaluateCells_ports : (evaluateCells s).ports = s.ports := by simp only [evaluateCells, hand_ports]
@[simp] theorem evaluateCells_clock : (evaluateCells s).clock = s.clock := by simp only [evaluateCells, hand_clock]
@[simp] theorem evaluateCells_pending : (evaluateCells s).pending = s.pending := by simp only [evaluateCells, hand_pending]

/-! ## gpoDelivery -/

@[simp] theorem gpoDelivery_inReset (g : PinIx) (c : CellIx) (out : Bool) : (gpoDelivery g c out s).inReset = s.inReset := by unfold gpoDelivery; split <;> rfl
@[simp] theorem gpoDelivery_parties (g : PinIx) (c : CellIx) (out : Bool) : (gpoDelivery g c out s).parties = s.parties := by unfold gpoDelivery; split <;> rfl
@[simp] theorem gpoDelivery_lines (g : PinIx) (c : CellIx) (out : Bool) : (gpoDelivery g c out s).lines = s.lines := by unfold gpoDelivery; split <;> rfl
@[simp] theorem gpoDelivery_links (g : PinIx) (c : CellIx) (out : Bool) : (gpoDelivery g c out s).links = s.links := by unfold gpoDelivery; split <;> rfl
@[simp] theorem gpoDelivery_dropCode (g : PinIx) (c : CellIx) (out : Bool) : (gpoDelivery g c out s).dropCode = s.dropCode := by unfold gpoDelivery; split <;> rfl
@[simp] theorem gpoDelivery_mix (g : PinIx) (c : CellIx) (out : Bool) : (gpoDelivery g c out s).mix = s.mix := by unfold gpoDelivery; split <;> rfl
@[simp] theorem gpoDelivery_partyMix (g : PinIx) (c : CellIx) (out : Bool) : (gpoDelivery g c out s).partyMix = s.partyMix := by unfold gpoDelivery; split <;> rfl
@[simp] theorem gpoDelivery_formed (g : PinIx) (c : CellIx) (out : Bool) : (gpoDelivery g c out s).formed = s.formed := by unfold gpoDelivery; split <;> rfl
@[simp] theorem gpoDelivery_formedBefore (g : PinIx) (c : CellIx) (out : Bool) : (gpoDelivery g c out s).formedBefore = s.formedBefore := by unfold gpoDelivery; split <;> rfl
@[simp] theorem gpoDelivery_sent (g : PinIx) (c : CellIx) (out : Bool) : (gpoDelivery g c out s).sent = s.sent := by unfold gpoDelivery; split <;> rfl
@[simp] theorem gpoDelivery_keys (g : PinIx) (c : CellIx) (out : Bool) : (gpoDelivery g c out s).keys = s.keys := by unfold gpoDelivery; split <;> rfl
@[simp] theorem gpoDelivery_foldBacks (g : PinIx) (c : CellIx) (out : Bool) : (gpoDelivery g c out s).foldBacks = s.foldBacks := by unfold gpoDelivery; split <;> rfl
@[simp] theorem gpoDelivery_memSize (g : PinIx) (c : CellIx) (out : Bool) : (gpoDelivery g c out s).memSize = s.memSize := by unfold gpoDelivery; split <;> rfl
@[simp] theorem gpoDelivery_memInUse (g : PinIx) (c : CellIx) (out : Bool) : (gpoDelivery g c out s).memInUse = s.memInUse := by unfold gpoDelivery; split <;> rfl
@[simp] theorem gpoDelivery_delays (g : PinIx) (c : CellIx) (out : Bool) : (gpoDelivery g c out s).delays = s.delays := by unfold gpoDelivery; split <;> rfl
@[simp] theorem gpoDelivery_sram (g : PinIx) (c : CellIx) (out : Bool) : (gpoDelivery g c out s).sram = s.sram := by unfold gpoDelivery; split <;> rfl
@[simp] theorem gpoDelivery_writers (g : PinIx) (c : CellIx) (out : Bool) : (gpoDelivery g c out s).writers = s.writers := by unfold gpoDelivery; split <;> rfl
@[simp] theorem gpoDelivery_memPort (g : PinIx) (c : CellIx) (out : Bool) : (gpoDelivery g c out s).memPort = s.memPort := by unfold gpoDelivery; split <;> rfl
@[simp] theorem gpoDelivery_steps (g : PinIx) (c : CellIx) (out : Bool) : (gpoDelivery g c out s).steps = s.steps := by unfold gpoDelivery; split <;> rfl
@[simp] theorem gpoDelivery_pitches (g : PinIx) (c : CellIx) (out : Bool) : (gpoDelivery g c out s).pitches = s.pitches := by unfold gpoDelivery; split <;> rfl
@[simp] theorem gpoDelivery_players (g : PinIx) (c : CellIx) (out : Bool) : (gpoDelivery g c out s).players = s.players := by unfold gpoDelivery; split <;> rfl
@[simp] theorem gpoDelivery_routes (g : PinIx) (c : CellIx) (out : Bool) : (gpoDelivery g c out s).routes = s.routes := by unfold gpoDelivery; split <;> rfl
@[simp] theorem gpoDelivery_meter (g : PinIx) (c : CellIx) (out : Bool) : (gpoDelivery g c out s).meter = s.meter := by unfold gpoDelivery; split <;> rfl
@[simp] theorem gpoDelivery_points (g : PinIx) (c : CellIx) (out : Bool) : (gpoDelivery g c out s).points = s.points := by unfold gpoDelivery; split <;> rfl
@[simp] theorem gpoDelivery_sups (g : PinIx) (c : CellIx) (out : Bool) : (gpoDelivery g c out s).sups = s.sups := by unfold gpoDelivery; split <;> rfl
@[simp] theorem gpoDelivery_gpis (g : PinIx) (c : CellIx) (out : Bool) : (gpoDelivery g c out s).gpis = s.gpis := by unfold gpoDelivery; split <;> rfl
@[simp] theorem gpoDelivery_cells (g : PinIx) (c : CellIx) (out : Bool) : (gpoDelivery g c out s).cells = s.cells := by unfold gpoDelivery; split <;> rfl
@[simp] theorem gpoDelivery_ports (g : PinIx) (c : CellIx) (out : Bool) : (gpoDelivery g c out s).ports = s.ports := by unfold gpoDelivery; split <;> rfl
@[simp] theorem gpoDelivery_clock (g : PinIx) (c : CellIx) (out : Bool) : (gpoDelivery g c out s).clock = s.clock := by unfold gpoDelivery; split <;> rfl
@[simp] theorem gpoDelivery_handed (g : PinIx) (c : CellIx) (out : Bool) : (gpoDelivery g c out s).handed = s.handed := by unfold gpoDelivery; split <;> rfl
@[simp] theorem gpoDelivery_pending (g : PinIx) (c : CellIx) (out : Bool) : (gpoDelivery g c out s).pending = s.pending := by unfold gpoDelivery; split <;> rfl

/-! ## keyTrigger -/

@[simp] theorem keyTrigger_inReset (k : KeyIx) (c : CellIx) (out : Bool) : (keyTrigger k c out s).inReset = s.inReset := by unfold keyTrigger; split <;> simp only [reform_inReset]
@[simp] theorem keyTrigger_parties (k : KeyIx) (c : CellIx) (out : Bool) : (keyTrigger k c out s).parties = s.parties := by unfold keyTrigger; split <;> simp only [reform_parties]
@[simp] theorem keyTrigger_lines (k : KeyIx) (c : CellIx) (out : Bool) : (keyTrigger k c out s).lines = s.lines := by unfold keyTrigger; split <;> simp only [reform_lines]
@[simp] theorem keyTrigger_links (k : KeyIx) (c : CellIx) (out : Bool) : (keyTrigger k c out s).links = s.links := by unfold keyTrigger; split <;> simp only [reform_links]
@[simp] theorem keyTrigger_dropCode (k : KeyIx) (c : CellIx) (out : Bool) : (keyTrigger k c out s).dropCode = s.dropCode := by unfold keyTrigger; split <;> simp only [reform_dropCode]
@[simp] theorem keyTrigger_mix (k : KeyIx) (c : CellIx) (out : Bool) : (keyTrigger k c out s).mix = s.mix := by unfold keyTrigger; split <;> simp only [reform_mix]
@[simp] theorem keyTrigger_partyMix (k : KeyIx) (c : CellIx) (out : Bool) : (keyTrigger k c out s).partyMix = s.partyMix := by unfold keyTrigger; split <;> simp only [reform_partyMix]
@[simp] theorem keyTrigger_formed (k : KeyIx) (c : CellIx) (out : Bool) : (keyTrigger k c out s).formed = s.formed := by unfold keyTrigger; split <;> simp only [reform_formed]
@[simp] theorem keyTrigger_formedBefore (k : KeyIx) (c : CellIx) (out : Bool) : (keyTrigger k c out s).formedBefore = s.formedBefore := by unfold keyTrigger; split <;> simp only [reform_formedBefore]
@[simp] theorem keyTrigger_sent (k : KeyIx) (c : CellIx) (out : Bool) : (keyTrigger k c out s).sent = s.sent := by unfold keyTrigger; split <;> simp only [reform_sent]
@[simp] theorem keyTrigger_memSize (k : KeyIx) (c : CellIx) (out : Bool) : (keyTrigger k c out s).memSize = s.memSize := by unfold keyTrigger; split <;> simp only [reform_memSize]
@[simp] theorem keyTrigger_memInUse (k : KeyIx) (c : CellIx) (out : Bool) : (keyTrigger k c out s).memInUse = s.memInUse := by unfold keyTrigger; split <;> simp only [reform_memInUse]
@[simp] theorem keyTrigger_delays (k : KeyIx) (c : CellIx) (out : Bool) : (keyTrigger k c out s).delays = s.delays := by unfold keyTrigger; split <;> simp only [reform_delays]
@[simp] theorem keyTrigger_sram (k : KeyIx) (c : CellIx) (out : Bool) : (keyTrigger k c out s).sram = s.sram := by unfold keyTrigger; split <;> simp only [reform_sram]
@[simp] theorem keyTrigger_writers (k : KeyIx) (c : CellIx) (out : Bool) : (keyTrigger k c out s).writers = s.writers := by unfold keyTrigger; split <;> simp only [reform_writers]
@[simp] theorem keyTrigger_memPort (k : KeyIx) (c : CellIx) (out : Bool) : (keyTrigger k c out s).memPort = s.memPort := by unfold keyTrigger; split <;> simp only [reform_memPort]
@[simp] theorem keyTrigger_steps (k : KeyIx) (c : CellIx) (out : Bool) : (keyTrigger k c out s).steps = s.steps := by unfold keyTrigger; split <;> simp only [reform_steps]
@[simp] theorem keyTrigger_pitches (k : KeyIx) (c : CellIx) (out : Bool) : (keyTrigger k c out s).pitches = s.pitches := by unfold keyTrigger; split <;> simp only [reform_pitches]
@[simp] theorem keyTrigger_players (k : KeyIx) (c : CellIx) (out : Bool) : (keyTrigger k c out s).players = s.players := by unfold keyTrigger; split <;> simp only [reform_players]
@[simp] theorem keyTrigger_routes (k : KeyIx) (c : CellIx) (out : Bool) : (keyTrigger k c out s).routes = s.routes := by unfold keyTrigger; split <;> simp only [reform_routes]
@[simp] theorem keyTrigger_meter (k : KeyIx) (c : CellIx) (out : Bool) : (keyTrigger k c out s).meter = s.meter := by unfold keyTrigger; split <;> simp only [reform_meter]
@[simp] theorem keyTrigger_points (k : KeyIx) (c : CellIx) (out : Bool) : (keyTrigger k c out s).points = s.points := by unfold keyTrigger; split <;> simp only [reform_points]
@[simp] theorem keyTrigger_sups (k : KeyIx) (c : CellIx) (out : Bool) : (keyTrigger k c out s).sups = s.sups := by unfold keyTrigger; split <;> simp only [reform_sups]
@[simp] theorem keyTrigger_gpis (k : KeyIx) (c : CellIx) (out : Bool) : (keyTrigger k c out s).gpis = s.gpis := by unfold keyTrigger; split <;> simp only [reform_gpis]
@[simp] theorem keyTrigger_cells (k : KeyIx) (c : CellIx) (out : Bool) : (keyTrigger k c out s).cells = s.cells := by unfold keyTrigger; split <;> simp only [reform_cells]
@[simp] theorem keyTrigger_gpos (k : KeyIx) (c : CellIx) (out : Bool) : (keyTrigger k c out s).gpos = s.gpos := by unfold keyTrigger; split <;> simp only [reform_gpos]
@[simp] theorem keyTrigger_ports (k : KeyIx) (c : CellIx) (out : Bool) : (keyTrigger k c out s).ports = s.ports := by unfold keyTrigger; split <;> simp only [reform_ports]
@[simp] theorem keyTrigger_clock (k : KeyIx) (c : CellIx) (out : Bool) : (keyTrigger k c out s).clock = s.clock := by unfold keyTrigger; split <;> simp only [reform_clock]
@[simp] theorem keyTrigger_handed (k : KeyIx) (c : CellIx) (out : Bool) : (keyTrigger k c out s).handed = s.handed := by unfold keyTrigger; split <;> simp only [reform_handed]
@[simp] theorem keyTrigger_pending (k : KeyIx) (c : CellIx) (out : Bool) : (keyTrigger k c out s).pending = s.pending := by unfold keyTrigger; split <;> simp only [reform_pending]

/-! ## playerTrigger -/

@[simp] theorem playerTrigger_inReset (j : PlayerIx) (c : CellIx) (out : Bool) : (playerTrigger j c out s).inReset = s.inReset := by unfold playerTrigger; split <;> rfl
@[simp] theorem playerTrigger_parties (j : PlayerIx) (c : CellIx) (out : Bool) : (playerTrigger j c out s).parties = s.parties := by unfold playerTrigger; split <;> rfl
@[simp] theorem playerTrigger_lines (j : PlayerIx) (c : CellIx) (out : Bool) : (playerTrigger j c out s).lines = s.lines := by unfold playerTrigger; split <;> rfl
@[simp] theorem playerTrigger_links (j : PlayerIx) (c : CellIx) (out : Bool) : (playerTrigger j c out s).links = s.links := by unfold playerTrigger; split <;> rfl
@[simp] theorem playerTrigger_dropCode (j : PlayerIx) (c : CellIx) (out : Bool) : (playerTrigger j c out s).dropCode = s.dropCode := by unfold playerTrigger; split <;> rfl
@[simp] theorem playerTrigger_mix (j : PlayerIx) (c : CellIx) (out : Bool) : (playerTrigger j c out s).mix = s.mix := by unfold playerTrigger; split <;> rfl
@[simp] theorem playerTrigger_partyMix (j : PlayerIx) (c : CellIx) (out : Bool) : (playerTrigger j c out s).partyMix = s.partyMix := by unfold playerTrigger; split <;> rfl
@[simp] theorem playerTrigger_formed (j : PlayerIx) (c : CellIx) (out : Bool) : (playerTrigger j c out s).formed = s.formed := by unfold playerTrigger; split <;> rfl
@[simp] theorem playerTrigger_formedBefore (j : PlayerIx) (c : CellIx) (out : Bool) : (playerTrigger j c out s).formedBefore = s.formedBefore := by unfold playerTrigger; split <;> rfl
@[simp] theorem playerTrigger_sent (j : PlayerIx) (c : CellIx) (out : Bool) : (playerTrigger j c out s).sent = s.sent := by unfold playerTrigger; split <;> rfl
@[simp] theorem playerTrigger_keys (j : PlayerIx) (c : CellIx) (out : Bool) : (playerTrigger j c out s).keys = s.keys := by unfold playerTrigger; split <;> rfl
@[simp] theorem playerTrigger_foldBacks (j : PlayerIx) (c : CellIx) (out : Bool) : (playerTrigger j c out s).foldBacks = s.foldBacks := by unfold playerTrigger; split <;> rfl
@[simp] theorem playerTrigger_memSize (j : PlayerIx) (c : CellIx) (out : Bool) : (playerTrigger j c out s).memSize = s.memSize := by unfold playerTrigger; split <;> rfl
@[simp] theorem playerTrigger_memInUse (j : PlayerIx) (c : CellIx) (out : Bool) : (playerTrigger j c out s).memInUse = s.memInUse := by unfold playerTrigger; split <;> rfl
@[simp] theorem playerTrigger_delays (j : PlayerIx) (c : CellIx) (out : Bool) : (playerTrigger j c out s).delays = s.delays := by unfold playerTrigger; split <;> rfl
@[simp] theorem playerTrigger_sram (j : PlayerIx) (c : CellIx) (out : Bool) : (playerTrigger j c out s).sram = s.sram := by unfold playerTrigger; split <;> rfl
@[simp] theorem playerTrigger_writers (j : PlayerIx) (c : CellIx) (out : Bool) : (playerTrigger j c out s).writers = s.writers := by unfold playerTrigger; split <;> rfl
@[simp] theorem playerTrigger_memPort (j : PlayerIx) (c : CellIx) (out : Bool) : (playerTrigger j c out s).memPort = s.memPort := by unfold playerTrigger; split <;> rfl
@[simp] theorem playerTrigger_steps (j : PlayerIx) (c : CellIx) (out : Bool) : (playerTrigger j c out s).steps = s.steps := by unfold playerTrigger; split <;> rfl
@[simp] theorem playerTrigger_pitches (j : PlayerIx) (c : CellIx) (out : Bool) : (playerTrigger j c out s).pitches = s.pitches := by unfold playerTrigger; split <;> rfl
@[simp] theorem playerTrigger_routes (j : PlayerIx) (c : CellIx) (out : Bool) : (playerTrigger j c out s).routes = s.routes := by unfold playerTrigger; split <;> rfl
@[simp] theorem playerTrigger_meter (j : PlayerIx) (c : CellIx) (out : Bool) : (playerTrigger j c out s).meter = s.meter := by unfold playerTrigger; split <;> rfl
@[simp] theorem playerTrigger_points (j : PlayerIx) (c : CellIx) (out : Bool) : (playerTrigger j c out s).points = s.points := by unfold playerTrigger; split <;> rfl
@[simp] theorem playerTrigger_sups (j : PlayerIx) (c : CellIx) (out : Bool) : (playerTrigger j c out s).sups = s.sups := by unfold playerTrigger; split <;> rfl
@[simp] theorem playerTrigger_gpis (j : PlayerIx) (c : CellIx) (out : Bool) : (playerTrigger j c out s).gpis = s.gpis := by unfold playerTrigger; split <;> rfl
@[simp] theorem playerTrigger_cells (j : PlayerIx) (c : CellIx) (out : Bool) : (playerTrigger j c out s).cells = s.cells := by unfold playerTrigger; split <;> rfl
@[simp] theorem playerTrigger_gpos (j : PlayerIx) (c : CellIx) (out : Bool) : (playerTrigger j c out s).gpos = s.gpos := by unfold playerTrigger; split <;> rfl
@[simp] theorem playerTrigger_ports (j : PlayerIx) (c : CellIx) (out : Bool) : (playerTrigger j c out s).ports = s.ports := by unfold playerTrigger; split <;> rfl
@[simp] theorem playerTrigger_clock (j : PlayerIx) (c : CellIx) (out : Bool) : (playerTrigger j c out s).clock = s.clock := by unfold playerTrigger; split <;> rfl
@[simp] theorem playerTrigger_handed (j : PlayerIx) (c : CellIx) (out : Bool) : (playerTrigger j c out s).handed = s.handed := by unfold playerTrigger; split <;> rfl
@[simp] theorem playerTrigger_pending (j : PlayerIx) (c : CellIx) (out : Bool) : (playerTrigger j c out s).pending = s.pending := by unfold playerTrigger; split <;> rfl

/-! ## delayTrigger -/

@[simp] theorem delayTrigger_inReset (k : Programme) (c : CellIx) (out : Bool) : (delayTrigger k c out s).inReset = s.inReset := by unfold delayTrigger; dsimp only; split <;> rfl
@[simp] theorem delayTrigger_parties (k : Programme) (c : CellIx) (out : Bool) : (delayTrigger k c out s).parties = s.parties := by unfold delayTrigger; dsimp only; split <;> rfl
@[simp] theorem delayTrigger_lines (k : Programme) (c : CellIx) (out : Bool) : (delayTrigger k c out s).lines = s.lines := by unfold delayTrigger; dsimp only; split <;> rfl
@[simp] theorem delayTrigger_links (k : Programme) (c : CellIx) (out : Bool) : (delayTrigger k c out s).links = s.links := by unfold delayTrigger; dsimp only; split <;> rfl
@[simp] theorem delayTrigger_dropCode (k : Programme) (c : CellIx) (out : Bool) : (delayTrigger k c out s).dropCode = s.dropCode := by unfold delayTrigger; dsimp only; split <;> rfl
@[simp] theorem delayTrigger_mix (k : Programme) (c : CellIx) (out : Bool) : (delayTrigger k c out s).mix = s.mix := by unfold delayTrigger; dsimp only; split <;> rfl
@[simp] theorem delayTrigger_partyMix (k : Programme) (c : CellIx) (out : Bool) : (delayTrigger k c out s).partyMix = s.partyMix := by unfold delayTrigger; dsimp only; split <;> rfl
@[simp] theorem delayTrigger_formed (k : Programme) (c : CellIx) (out : Bool) : (delayTrigger k c out s).formed = s.formed := by unfold delayTrigger; dsimp only; split <;> rfl
@[simp] theorem delayTrigger_formedBefore (k : Programme) (c : CellIx) (out : Bool) : (delayTrigger k c out s).formedBefore = s.formedBefore := by unfold delayTrigger; dsimp only; split <;> rfl
@[simp] theorem delayTrigger_sent (k : Programme) (c : CellIx) (out : Bool) : (delayTrigger k c out s).sent = s.sent := by unfold delayTrigger; dsimp only; split <;> rfl
@[simp] theorem delayTrigger_keys (k : Programme) (c : CellIx) (out : Bool) : (delayTrigger k c out s).keys = s.keys := by unfold delayTrigger; dsimp only; split <;> rfl
@[simp] theorem delayTrigger_foldBacks (k : Programme) (c : CellIx) (out : Bool) : (delayTrigger k c out s).foldBacks = s.foldBacks := by unfold delayTrigger; dsimp only; split <;> rfl
@[simp] theorem delayTrigger_memSize (k : Programme) (c : CellIx) (out : Bool) : (delayTrigger k c out s).memSize = s.memSize := by unfold delayTrigger; dsimp only; split <;> rfl
@[simp] theorem delayTrigger_memInUse (k : Programme) (c : CellIx) (out : Bool) : (delayTrigger k c out s).memInUse = s.memInUse := by unfold delayTrigger; dsimp only; split <;> rfl
@[simp] theorem delayTrigger_sram (k : Programme) (c : CellIx) (out : Bool) : (delayTrigger k c out s).sram = s.sram := by unfold delayTrigger; dsimp only; split <;> rfl
@[simp] theorem delayTrigger_writers (k : Programme) (c : CellIx) (out : Bool) : (delayTrigger k c out s).writers = s.writers := by unfold delayTrigger; dsimp only; split <;> rfl
@[simp] theorem delayTrigger_memPort (k : Programme) (c : CellIx) (out : Bool) : (delayTrigger k c out s).memPort = s.memPort := by unfold delayTrigger; dsimp only; split <;> rfl
@[simp] theorem delayTrigger_steps (k : Programme) (c : CellIx) (out : Bool) : (delayTrigger k c out s).steps = s.steps := by unfold delayTrigger; dsimp only; split <;> rfl
@[simp] theorem delayTrigger_pitches (k : Programme) (c : CellIx) (out : Bool) : (delayTrigger k c out s).pitches = s.pitches := by unfold delayTrigger; dsimp only; split <;> rfl
@[simp] theorem delayTrigger_players (k : Programme) (c : CellIx) (out : Bool) : (delayTrigger k c out s).players = s.players := by unfold delayTrigger; dsimp only; split <;> rfl
@[simp] theorem delayTrigger_routes (k : Programme) (c : CellIx) (out : Bool) : (delayTrigger k c out s).routes = s.routes := by unfold delayTrigger; dsimp only; split <;> rfl
@[simp] theorem delayTrigger_meter (k : Programme) (c : CellIx) (out : Bool) : (delayTrigger k c out s).meter = s.meter := by unfold delayTrigger; dsimp only; split <;> rfl
@[simp] theorem delayTrigger_points (k : Programme) (c : CellIx) (out : Bool) : (delayTrigger k c out s).points = s.points := by unfold delayTrigger; dsimp only; split <;> rfl
@[simp] theorem delayTrigger_sups (k : Programme) (c : CellIx) (out : Bool) : (delayTrigger k c out s).sups = s.sups := by unfold delayTrigger; dsimp only; split <;> rfl
@[simp] theorem delayTrigger_gpis (k : Programme) (c : CellIx) (out : Bool) : (delayTrigger k c out s).gpis = s.gpis := by unfold delayTrigger; dsimp only; split <;> rfl
@[simp] theorem delayTrigger_cells (k : Programme) (c : CellIx) (out : Bool) : (delayTrigger k c out s).cells = s.cells := by unfold delayTrigger; dsimp only; split <;> rfl
@[simp] theorem delayTrigger_gpos (k : Programme) (c : CellIx) (out : Bool) : (delayTrigger k c out s).gpos = s.gpos := by unfold delayTrigger; dsimp only; split <;> rfl
@[simp] theorem delayTrigger_ports (k : Programme) (c : CellIx) (out : Bool) : (delayTrigger k c out s).ports = s.ports := by unfold delayTrigger; dsimp only; split <;> rfl
@[simp] theorem delayTrigger_clock (k : Programme) (c : CellIx) (out : Bool) : (delayTrigger k c out s).clock = s.clock := by unfold delayTrigger; dsimp only; split <;> rfl
@[simp] theorem delayTrigger_handed (k : Programme) (c : CellIx) (out : Bool) : (delayTrigger k c out s).handed = s.handed := by unfold delayTrigger; dsimp only; split <;> rfl
@[simp] theorem delayTrigger_pending (k : Programme) (c : CellIx) (out : Bool) : (delayTrigger k c out s).pending = s.pending := by unfold delayTrigger; dsimp only; split <;> rfl

/-! ## mePeriod -/

@[simp] theorem mePeriod_inReset : (mePeriod s).inReset = s.inReset := by simp only [mePeriod]
@[simp] theorem mePeriod_parties : (mePeriod s).parties = s.parties := by simp only [mePeriod]
@[simp] theorem mePeriod_lines : (mePeriod s).lines = s.lines := by simp only [mePeriod]
@[simp] theorem mePeriod_links : (mePeriod s).links = s.links := by simp only [mePeriod]
@[simp] theorem mePeriod_dropCode : (mePeriod s).dropCode = s.dropCode := by simp only [mePeriod]
@[simp] theorem mePeriod_formed : (mePeriod s).formed = s.formed := by simp only [mePeriod]
@[simp] theorem mePeriod_formedBefore : (mePeriod s).formedBefore = s.formedBefore := by simp only [mePeriod]
@[simp] theorem mePeriod_sent : (mePeriod s).sent = s.sent := by simp only [mePeriod]
@[simp] theorem mePeriod_keys : (mePeriod s).keys = s.keys := by simp only [mePeriod]
@[simp] theorem mePeriod_foldBacks : (mePeriod s).foldBacks = s.foldBacks := by simp only [mePeriod]
@[simp] theorem mePeriod_memSize : (mePeriod s).memSize = s.memSize := by simp only [mePeriod]
@[simp] theorem mePeriod_memInUse : (mePeriod s).memInUse = s.memInUse := by simp only [mePeriod]
@[simp] theorem mePeriod_delays : (mePeriod s).delays = s.delays := by simp only [mePeriod]
@[simp] theorem mePeriod_sram : (mePeriod s).sram = s.sram := by simp only [mePeriod]
@[simp] theorem mePeriod_writers : (mePeriod s).writers = s.writers := by simp only [mePeriod]
@[simp] theorem mePeriod_memPort : (mePeriod s).memPort = s.memPort := by simp only [mePeriod]
@[simp] theorem mePeriod_steps : (mePeriod s).steps = s.steps := by simp only [mePeriod]
@[simp] theorem mePeriod_pitches : (mePeriod s).pitches = s.pitches := by simp only [mePeriod]
@[simp] theorem mePeriod_players : (mePeriod s).players = s.players := by simp only [mePeriod]
@[simp] theorem mePeriod_routes : (mePeriod s).routes = s.routes := by simp only [mePeriod]
@[simp] theorem mePeriod_meter : (mePeriod s).meter = s.meter := by simp only [mePeriod]
@[simp] theorem mePeriod_points : (mePeriod s).points = s.points := by simp only [mePeriod]
@[simp] theorem mePeriod_sups : (mePeriod s).sups = s.sups := by simp only [mePeriod]
@[simp] theorem mePeriod_gpis : (mePeriod s).gpis = s.gpis := by simp only [mePeriod]
@[simp] theorem mePeriod_cells : (mePeriod s).cells = s.cells := by simp only [mePeriod]
@[simp] theorem mePeriod_gpos : (mePeriod s).gpos = s.gpos := by simp only [mePeriod]
@[simp] theorem mePeriod_ports : (mePeriod s).ports = s.ports := by simp only [mePeriod]
@[simp] theorem mePeriod_clock : (mePeriod s).clock = s.clock := by simp only [mePeriod]
@[simp] theorem mePeriod_handed : (mePeriod s).handed = s.handed := by simp only [mePeriod]
@[simp] theorem mePeriod_pending : (mePeriod s).pending = s.pending := by simp only [mePeriod]

/-! ## endFrame -/

@[simp] theorem endFrame_inReset : (endFrame s).inReset = s.inReset := by unfold endFrame; split <;> simp only
@[simp] theorem endFrame_parties : (endFrame s).parties = s.parties := by unfold endFrame; split <;> simp only
@[simp] theorem endFrame_lines : (endFrame s).lines = s.lines := by unfold endFrame; split <;> simp only
@[simp] theorem endFrame_links : (endFrame s).links = s.links := by unfold endFrame; split <;> simp only
@[simp] theorem endFrame_dropCode : (endFrame s).dropCode = s.dropCode := by unfold endFrame; split <;> simp only
@[simp] theorem endFrame_formed : (endFrame s).formed = s.formed := by unfold endFrame; split <;> simp only
@[simp] theorem endFrame_formedBefore : (endFrame s).formedBefore = s.formedBefore := by unfold endFrame; split <;> simp only
@[simp] theorem endFrame_sent : (endFrame s).sent = s.sent := by unfold endFrame; split <;> simp only
@[simp] theorem endFrame_keys : (endFrame s).keys = s.keys := by unfold endFrame; split <;> simp only
@[simp] theorem endFrame_foldBacks : (endFrame s).foldBacks = s.foldBacks := by unfold endFrame; split <;> simp only
@[simp] theorem endFrame_memSize : (endFrame s).memSize = s.memSize := by unfold endFrame; split <;> simp only
@[simp] theorem endFrame_memInUse : (endFrame s).memInUse = s.memInUse := by unfold endFrame; split <;> simp only
@[simp] theorem endFrame_delays : (endFrame s).delays = s.delays := by unfold endFrame; split <;> simp only
@[simp] theorem endFrame_sram : (endFrame s).sram = s.sram := by unfold endFrame; split <;> simp only
@[simp] theorem endFrame_writers : (endFrame s).writers = s.writers := by unfold endFrame; split <;> simp only
@[simp] theorem endFrame_memPort : (endFrame s).memPort = s.memPort := by unfold endFrame; split <;> simp only
@[simp] theorem endFrame_steps : (endFrame s).steps = s.steps := by unfold endFrame; split <;> simp only
@[simp] theorem endFrame_pitches : (endFrame s).pitches = s.pitches := by unfold endFrame; split <;> simp only
@[simp] theorem endFrame_players : (endFrame s).players = s.players := by unfold endFrame; split <;> simp only
@[simp] theorem endFrame_routes : (endFrame s).routes = s.routes := by unfold endFrame; split <;> simp only
@[simp] theorem endFrame_meter : (endFrame s).meter = s.meter := by unfold endFrame; split <;> simp only
@[simp] theorem endFrame_points : (endFrame s).points = s.points := by unfold endFrame; split <;> simp only
@[simp] theorem endFrame_sups : (endFrame s).sups = s.sups := by unfold endFrame; split <;> simp only
@[simp] theorem endFrame_gpis : (endFrame s).gpis = s.gpis := by unfold endFrame; split <;> simp only
@[simp] theorem endFrame_cells : (endFrame s).cells = s.cells := by unfold endFrame; split <;> simp only
@[simp] theorem endFrame_gpos : (endFrame s).gpos = s.gpos := by unfold endFrame; split <;> simp only
@[simp] theorem endFrame_ports : (endFrame s).ports = s.ports := by unfold endFrame; split <;> simp only
@[simp] theorem endFrame_clock : (endFrame s).clock = s.clock := by unfold endFrame; split <;> simp only
@[simp] theorem endFrame_handed : (endFrame s).handed = s.handed := by unfold endFrame; split <;> simp only
@[simp] theorem endFrame_pending : (endFrame s).pending = s.pending := by unfold endFrame; split <;> simp only

/-! ## frameComputation -/

@[simp] theorem frameComputation_inReset (x : FrameIn) : (frameComputation x s).inReset = s.inReset := by simp only [frameComputation, endFrame_inReset, raiseIf_inReset]
@[simp] theorem frameComputation_parties (x : FrameIn) : (frameComputation x s).parties = s.parties := by simp only [frameComputation, endFrame_parties, raiseIf_parties]
@[simp] theorem frameComputation_lines (x : FrameIn) : (frameComputation x s).lines = s.lines := by simp only [frameComputation, endFrame_lines, raiseIf_lines]
@[simp] theorem frameComputation_links (x : FrameIn) : (frameComputation x s).links = s.links := by simp only [frameComputation, endFrame_links, raiseIf_links]
@[simp] theorem frameComputation_dropCode (x : FrameIn) : (frameComputation x s).dropCode = s.dropCode := by simp only [frameComputation, endFrame_dropCode, raiseIf_dropCode]
@[simp] theorem frameComputation_keys (x : FrameIn) : (frameComputation x s).keys = s.keys := by simp only [frameComputation, endFrame_keys, raiseIf_keys]
@[simp] theorem frameComputation_foldBacks (x : FrameIn) : (frameComputation x s).foldBacks = s.foldBacks := by simp only [frameComputation, endFrame_foldBacks, raiseIf_foldBacks]
@[simp] theorem frameComputation_memSize (x : FrameIn) : (frameComputation x s).memSize = s.memSize := by simp only [frameComputation, endFrame_memSize, raiseIf_memSize]
@[simp] theorem frameComputation_delays (x : FrameIn) : (frameComputation x s).delays = s.delays := by simp only [frameComputation, endFrame_delays, raiseIf_delays]
@[simp] theorem frameComputation_sram (x : FrameIn) : (frameComputation x s).sram = s.sram := by simp only [frameComputation, endFrame_sram, raiseIf_sram]
@[simp] theorem frameComputation_writers (x : FrameIn) : (frameComputation x s).writers = s.writers := by simp only [frameComputation, endFrame_writers, raiseIf_writers]
@[simp] theorem frameComputation_steps (x : FrameIn) : (frameComputation x s).steps = s.steps := by simp only [frameComputation, endFrame_steps, raiseIf_steps]
@[simp] theorem frameComputation_pitches (x : FrameIn) : (frameComputation x s).pitches = s.pitches := by simp only [frameComputation, endFrame_pitches, raiseIf_pitches]
@[simp] theorem frameComputation_routes (x : FrameIn) : (frameComputation x s).routes = s.routes := by simp only [frameComputation, endFrame_routes, raiseIf_routes]
@[simp] theorem frameComputation_meter (x : FrameIn) : (frameComputation x s).meter = s.meter := by simp only [frameComputation, endFrame_meter, raiseIf_meter]
@[simp] theorem frameComputation_sups (x : FrameIn) : (frameComputation x s).sups = s.sups := by simp only [frameComputation, endFrame_sups, raiseIf_sups]
@[simp] theorem frameComputation_gpis (x : FrameIn) : (frameComputation x s).gpis = s.gpis := by simp only [frameComputation, endFrame_gpis, raiseIf_gpis]
@[simp] theorem frameComputation_cells (x : FrameIn) : (frameComputation x s).cells = s.cells := by simp only [frameComputation, endFrame_cells, raiseIf_cells]
@[simp] theorem frameComputation_gpos (x : FrameIn) : (frameComputation x s).gpos = s.gpos := by simp only [frameComputation, endFrame_gpos, raiseIf_gpos]
@[simp] theorem frameComputation_clock (x : FrameIn) : (frameComputation x s).clock = s.clock := by simp only [frameComputation, endFrame_clock, raiseIf_clock]
@[simp] theorem frameComputation_handed (x : FrameIn) : (frameComputation x s).handed = s.handed := by simp only [frameComputation, endFrame_handed, raiseIf_handed]
@[simp] theorem frameComputation_pending (x : FrameIn) : (frameComputation x s).pending = s.pending := by simp only [frameComputation, endFrame_pending, raiseIf_pending]

/-! ## judge -/

@[simp] theorem judge_inReset (edges : Nat) : (judge edges s).inReset = s.inReset := by simp only [judge, raiseIf_inReset]
@[simp] theorem judge_parties (edges : Nat) : (judge edges s).parties = s.parties := by simp only [judge, raiseIf_parties]
@[simp] theorem judge_lines (edges : Nat) : (judge edges s).lines = s.lines := by simp only [judge, raiseIf_lines]
@[simp] theorem judge_links (edges : Nat) : (judge edges s).links = s.links := by simp only [judge, raiseIf_links]
@[simp] theorem judge_dropCode (edges : Nat) : (judge edges s).dropCode = s.dropCode := by simp only [judge, raiseIf_dropCode]
@[simp] theorem judge_mix (edges : Nat) : (judge edges s).mix = s.mix := by simp only [judge, raiseIf_mix]
@[simp] theorem judge_partyMix (edges : Nat) : (judge edges s).partyMix = s.partyMix := by simp only [judge, raiseIf_partyMix]
@[simp] theorem judge_formed (edges : Nat) : (judge edges s).formed = s.formed := by simp only [judge, raiseIf_formed]
@[simp] theorem judge_formedBefore (edges : Nat) : (judge edges s).formedBefore = s.formedBefore := by simp only [judge, raiseIf_formedBefore]
@[simp] theorem judge_sent (edges : Nat) : (judge edges s).sent = s.sent := by simp only [judge, raiseIf_sent]
@[simp] theorem judge_keys (edges : Nat) : (judge edges s).keys = s.keys := by simp only [judge, raiseIf_keys]
@[simp] theorem judge_foldBacks (edges : Nat) : (judge edges s).foldBacks = s.foldBacks := by simp only [judge, raiseIf_foldBacks]
@[simp] theorem judge_memSize (edges : Nat) : (judge edges s).memSize = s.memSize := by simp only [judge, raiseIf_memSize]
@[simp] theorem judge_memInUse (edges : Nat) : (judge edges s).memInUse = s.memInUse := by simp only [judge, raiseIf_memInUse]
@[simp] theorem judge_delays (edges : Nat) : (judge edges s).delays = s.delays := by simp only [judge, raiseIf_delays]
@[simp] theorem judge_sram (edges : Nat) : (judge edges s).sram = s.sram := by simp only [judge, raiseIf_sram]
@[simp] theorem judge_writers (edges : Nat) : (judge edges s).writers = s.writers := by simp only [judge, raiseIf_writers]
@[simp] theorem judge_memPort (edges : Nat) : (judge edges s).memPort = s.memPort := by simp only [judge, raiseIf_memPort]
@[simp] theorem judge_steps (edges : Nat) : (judge edges s).steps = s.steps := by simp only [judge, raiseIf_steps]
@[simp] theorem judge_pitches (edges : Nat) : (judge edges s).pitches = s.pitches := by simp only [judge, raiseIf_pitches]
@[simp] theorem judge_players (edges : Nat) : (judge edges s).players = s.players := by simp only [judge, raiseIf_players]
@[simp] theorem judge_routes (edges : Nat) : (judge edges s).routes = s.routes := by simp only [judge, raiseIf_routes]
@[simp] theorem judge_meter (edges : Nat) : (judge edges s).meter = s.meter := by simp only [judge, raiseIf_meter]
@[simp] theorem judge_points (edges : Nat) : (judge edges s).points = s.points := by simp only [judge, raiseIf_points]
@[simp] theorem judge_sups (edges : Nat) : (judge edges s).sups = s.sups := by simp only [judge, raiseIf_sups]
@[simp] theorem judge_gpis (edges : Nat) : (judge edges s).gpis = s.gpis := by simp only [judge, raiseIf_gpis]
@[simp] theorem judge_cells (edges : Nat) : (judge edges s).cells = s.cells := by simp only [judge, raiseIf_cells]
@[simp] theorem judge_gpos (edges : Nat) : (judge edges s).gpos = s.gpos := by simp only [judge, raiseIf_gpos]
@[simp] theorem judge_handed (edges : Nat) : (judge edges s).handed = s.handed := by simp only [judge, raiseIf_handed]
@[simp] theorem judge_pending (edges : Nat) : (judge edges s).pending = s.pending := by simp only [judge, raiseIf_pending]

/-! ## enqueue -/

@[simp] theorem enqueue_inReset (c : Instr) : (enqueue c s).inReset = s.inReset := rfl
@[simp] theorem enqueue_parties (c : Instr) : (enqueue c s).parties = s.parties := rfl
@[simp] theorem enqueue_lines (c : Instr) : (enqueue c s).lines = s.lines := rfl
@[simp] theorem enqueue_links (c : Instr) : (enqueue c s).links = s.links := rfl
@[simp] theorem enqueue_dropCode (c : Instr) : (enqueue c s).dropCode = s.dropCode := rfl
@[simp] theorem enqueue_mix (c : Instr) : (enqueue c s).mix = s.mix := rfl
@[simp] theorem enqueue_partyMix (c : Instr) : (enqueue c s).partyMix = s.partyMix := rfl
@[simp] theorem enqueue_formed (c : Instr) : (enqueue c s).formed = s.formed := rfl
@[simp] theorem enqueue_formedBefore (c : Instr) : (enqueue c s).formedBefore = s.formedBefore := rfl
@[simp] theorem enqueue_sent (c : Instr) : (enqueue c s).sent = s.sent := rfl
@[simp] theorem enqueue_keys (c : Instr) : (enqueue c s).keys = s.keys := rfl
@[simp] theorem enqueue_foldBacks (c : Instr) : (enqueue c s).foldBacks = s.foldBacks := rfl
@[simp] theorem enqueue_memSize (c : Instr) : (enqueue c s).memSize = s.memSize := rfl
@[simp] theorem enqueue_memInUse (c : Instr) : (enqueue c s).memInUse = s.memInUse := rfl
@[simp] theorem enqueue_delays (c : Instr) : (enqueue c s).delays = s.delays := rfl
@[simp] theorem enqueue_sram (c : Instr) : (enqueue c s).sram = s.sram := rfl
@[simp] theorem enqueue_writers (c : Instr) : (enqueue c s).writers = s.writers := rfl
@[simp] theorem enqueue_memPort (c : Instr) : (enqueue c s).memPort = s.memPort := rfl
@[simp] theorem enqueue_steps (c : Instr) : (enqueue c s).steps = s.steps := rfl
@[simp] theorem enqueue_pitches (c : Instr) : (enqueue c s).pitches = s.pitches := rfl
@[simp] theorem enqueue_players (c : Instr) : (enqueue c s).players = s.players := rfl
@[simp] theorem enqueue_routes (c : Instr) : (enqueue c s).routes = s.routes := rfl
@[simp] theorem enqueue_meter (c : Instr) : (enqueue c s).meter = s.meter := rfl
@[simp] theorem enqueue_points (c : Instr) : (enqueue c s).points = s.points := rfl
@[simp] theorem enqueue_sups (c : Instr) : (enqueue c s).sups = s.sups := rfl
@[simp] theorem enqueue_gpis (c : Instr) : (enqueue c s).gpis = s.gpis := rfl
@[simp] theorem enqueue_cells (c : Instr) : (enqueue c s).cells = s.cells := rfl
@[simp] theorem enqueue_gpos (c : Instr) : (enqueue c s).gpos = s.gpos := rfl
@[simp] theorem enqueue_ports (c : Instr) : (enqueue c s).ports = s.ports := rfl
@[simp] theorem enqueue_clock (c : Instr) : (enqueue c s).clock = s.clock := rfl
@[simp] theorem enqueue_handed (c : Instr) : (enqueue c s).handed = s.handed := rfl

end Sys2Proof.Machine
end

