-- ==== Sys2Proof/Laws/Ports.lean ====
section
/-! SUPPORT. What a command leaves on the ports: a reply in the slot of its own port, raised flags on all three, and nothing else.
One lemma for each control port command says how it is answered. -/

namespace Sys2Proof.Machine

/-! ## Items of a vector -/

/-- An item of a vector given by a function. -/
@[simp] theorem ofFn_get {α : Type} {n : Nat} (f : Fin n → α) (i : Fin n) : (Vector.ofFn f)[i] = f i := by simp

/-- The item that was set. -/
theorem set_get_self {α : Type} {n : Nat} (v : Vector α n) (i : Fin n) (x : α) : (v.set i x)[i] = x := by simp

/-- Another item than the one that was set. -/
theorem set_get_other {α : Type} {n : Nat} (v : Vector α n) (i j : Fin n) (x : α) (h : j ≠ i) : (v.set i x)[j] = v[j] := by
  have : i.val ≠ j.val := fun e => h (Fin.ext e.symm)
  simp [this]

/-- An item after one was set. -/
theorem set_get {α : Type} {n : Nat} (v : Vector α n) (i j : Fin n) (x : α) : (v.set i x)[j] = if j = i then x else v[j] := by
  by_cases h : j = i
  · subst h; simp
  · rw [if_neg h, set_get_other v i j x h]

/-- An item of a table after one was set. -/
theorem set_get_two {α : Type} {n m : Nat} (v : Vector (Vector α m) n) (i k : Fin n) (j l : Fin m) (x : α) :
    (v.set i (v[i].set j x))[k][l] = if k = i ∧ l = j then x else v[k][l] := by
  have h1 := set_get v i k (v[i].set j x)
  by_cases h : k = i
  · subst h
    rw [if_pos rfl] at h1
    have h2 := congrArg (fun w : Vector α m => w[l]) h1
    rw [h2, set_get]; simp
  · rw [if_neg h] at h1
    have h2 := congrArg (fun w : Vector α m => w[l]) h1
    rw [h2, if_neg (fun e => h e.1)]

/-- Setting one item leaves the others. -/
theorem sameBut_set {α : Type} {n : Nat} (v : Vector α n) (i : Fin n) (x : α) : SameBut i v (v.set i x) :=
  fun j h => set_get_other v i j x h

/-- A vector stands when an item is set to itself. -/
theorem set_self {α : Type} {n : Nat} (v : Vector α n) (i : Fin n) : v.set i v[i] = v := by simp

/-! ## Steps and live commands -/

/-- A live command gives its effect, or stands while RESET is asserted. -/
theorem live_next {s e t : State} : live s e = .next t ↔ t = if s.inReset then s else e := by
  unfold live
  constructor
  · intro h; cases h; rfl
  · rintro rfl; rfl

/-- A live command outside RESET. -/
theorem live_of_released {s : State} (e : State) (h : s.inReset = false) : live s e = .next e := by simp [live, h]

/-- A step stands, or runs the command at the front of the queue. -/
theorem step_next {s t : State} (h : step s = .next t) :
    t = s ∨ ∃ c rest, s.pending = c :: rest ∧ exec c { s with pending := rest } = .next t := by
  unfold step at h
  split at h
  · left; cases h; rfl
  · right; exact ⟨_, _, by assumption, h⟩

/-! ## Raised flags and replies on the ports -/

/-- The flags of all ports after an event was raised. -/
theorem raise_ports (e : Event) (s : State) (j : PortIx) :
    (raise e s).ports[j] = { s.ports[j] with flags := s.ports[j].flags ||| e.flagOf } := by simp [raise]

/-- The ports after an event was raised where a condition holds. -/
theorem raiseIf_ports (b : Bool) (e : Event) (s : State) (j : PortIx) :
    (raiseIf b e s).ports[j] = { s.ports[j] with flags := s.ports[j].flags ||| flagIf b e } := by
  cases b <;> simp [raiseIf, flagIf, raise]

/-- The ports after a reply. -/
theorem reply_ports (q : PortIx) (tag : Byte) (r : Result) (body : List Byte) (s : State) (j : PortIx) :
    (reply q tag r body s).ports[j] =
      if j = q then { s.ports[q] with slot := { tag := tag, result := r, body := body } } else s.ports[j] := by
  unfold reply
  exact set_get _ _ _ _

/-- A reply over a state whose ports stand but for raised flags. -/
theorem replied_of_raised {q : PortIx} {tag : Byte} {r : Result} {body : List Byte} {b : BitVec 11} {s s' : State}
    (h : ∀ j : PortIx, s'.ports[j] = { s.ports[j] with flags := s.ports[j].flags ||| b }) :
    Replied q tag r body b s (reply q tag r body s') := by
  constructor
  · rw [reply_ports]; simp
  · intro j hj; rw [reply_ports, if_neg hj, h]
  all_goals
    intro j
    rw [reply_ports]
    split
    · subst j; rw [h]
    · rw [h]

/-- A reply over a state whose ports stand. -/
theorem replied_of_ports {q : PortIx} {tag : Byte} {r : Result} {body : List Byte} {s s' : State} (h : s'.ports = s.ports) :
    Replied q tag r body 0 s (reply q tag r body s') :=
  replied_of_raised fun j => by rw [h]; simp

/-- A reply alone. -/
theorem replied_self (q : PortIx) (tag : Byte) (r : Result) (body : List Byte) (s : State) :
    Replied q tag r body 0 s (reply q tag r body s) := replied_of_ports rfl

/-- A reply changes nothing but the ports. -/
theorem reply_rest (q : PortIx) (tag : Byte) (r : Result) (body : List Byte) (s : State) :
    reply q tag r body s = { s with ports := (reply q tag r body s).ports } := rfl

/-- An arrival whose ports are those before with flags raised. -/
theorem raised_of_ports {b : BitVec 11} {s t : State}
    (h : ∀ j : PortIx, t.ports[j] = { s.ports[j] with flags := s.ports[j].flags ||| b }) : Raised b s t := by
  constructor <;> intro j <;> rw [h]

/-- An arrival that raises nothing. -/
theorem raised_zero {s t : State} (h : t.ports = s.ports) : Raised 0 s t := raised_of_ports fun j => by rw [h]; simp

/-- An event raised where a condition holds, over a state whose ports stand. -/
theorem raised_raiseIf {b : Bool} {e : Event} {s s' : State} (h : s'.ports = s.ports) : Raised (flagIf b e) s (raiseIf b e s') :=
  raised_of_ports fun j => by rw [raiseIf_ports, h]

/-! ## The events of each update -/

/-- The ports after a change of state: PARTY is raised. -/
theorem changeState_ports (p : PartyIx) (st : PState) (k : Programme) (s : State) (j : PortIx) :
    (changeState p st k s).ports[j] = { s.ports[j] with flags := s.ports[j].flags ||| Event.party.flagOf } := by
  unfold changeState; rw [raise_ports]; simp only [onLine_ports]

/-- The ports after a supervision cause: PARTY and the event of the cause where it is applied. -/
theorem applyCause_ports (kind : Kind) (froms : List PState) (next : PState) (ev : Option Event) (p : PartyIx) (s : State)
    (j : PortIx) :
    (applyCause kind froms next ev p s).ports[j] = { s.ports[j] with
      flags := s.ports[j].flags |||
        if kindOf p = kind ∧ s.parties[p].state ∈ froms then
          Event.party.flagOf ||| match ev with | some e => e.flagOf | none => 0
        else 0 } := by
  unfold applyCause
  split
  · cases ev with
    | none => simp [changeState_ports, -Fin.getElem_fin]
    | some e => rw [raise_ports, changeState_ports, BitVec.or_assoc]
  · simp

/-- The ports after an accepted SET PARTY: PARTY where a stored value changed. -/
theorem storeParty_ports (p : PartyIx) (r : PartyRec) (s : State) (j : PortIx) :
    (storeParty p r s).ports[j] =
      { s.ports[j] with flags := s.ports[j].flags ||| flagIf (r != s.parties[p]) .party } := raiseIf_ports _ _ _ j

/-- The ports after the evaluation of a line: FLASH where the loop came back. -/
theorem evaluateParty_ports_line (p : PartyIx) (h : p.val < 16) (s : State) (j : PortIx) :
    (evaluateParty p s).ports[j] = { s.ports[j] with
      flags := s.ports[j].flags |||
        flagIf (evaluateLine p s.parties[p].state (dropTime s.dropCode) s.lines[p.val]).2.1 .flash } := by
  unfold evaluateParty
  rw [dif_pos h]
  simp only [hand_ports]
  exact raiseIf_ports _ _ _ j

/-- The ports stand at the evaluation of a codec. -/
theorem evaluateParty_ports_link (p : PartyIx) (h : ¬ p.val < 16) (s : State) : (evaluateParty p s).ports = s.ports := by
  unfold evaluateParty; rw [dif_neg h]; rfl

/-- The ports after the period start of a delay: DELAY at a change of state. -/
theorem delayPeriod_ports (k : Programme) (s : State) (j : PortIx) :
    (delayPeriod k s).ports[j] = { s.ports[j] with
      flags := s.ports[j].flags ||| flagIf ((periodDelay s.delays[k]).state != s.delays[k].state) .delay } := by
  unfold delayPeriod; rw [raiseIf_ports]; simp only [testGuards_ports]

/-- The ports after the period start of a player: TONE where it goes IDLE. -/
theorem playerPeriod_ports (n : PlayerIx) (s : State) (j : PortIx) :
    (playerPeriod n s).ports[j] = { s.ports[j] with
      flags := s.ports[j].flags |||
        flagIf (s.players[n].state != .idle && (periodPlayer s.steps s.players[n]).state == .idle) .tone } :=
  raiseIf_ports _ _ _ j

/-- The ports after a completed measurement: SUPERVISE where a supervisor changes its state. -/
theorem completeMeasurement_ports (s : State) (j : PortIx) :
    (completeMeasurement s).ports[j] = { s.ports[j] with
      flags := s.ports[j].flags |||
        flagIf ((List.finRange 8).any fun n => (supAfter s.sups[n] (meanCode s s.sups[n].point)).alarm != s.sups[n].alarm)
          .supervise } := raiseIf_ports _ _ _ j

/-- The ports after the period start of the level monitor: those of a measurement where one completes, and otherwise as they
stood. -/
theorem meterPeriod_ports (s : State) :
    (meterPeriod s).ports = if measurementDue s.meter then (completeMeasurement s).ports else s.ports := by
  unfold meterPeriod measurementDue
  cases s.meter.phase with
  | stopped => cases s.meter.mode <;> rfl
  | measuring =>
    by_cases h : s.meter.periodsLeft ≤ 1
    · simp only [if_pos h, afterMeasurement_ports]; simp [h]
    · simp [h]
  | waiting =>
    cases s.meter.mode
    · rfl
    · rfl
    · by_cases h : s.meter.periodsLeft ≤ 1 <;> simp [h]

/-- The ports after the period end of the logic cells: GPI where a filtered value changes. -/
theorem lcPeriod_ports (pins : Vector Bool 8) (s : State) (j : PortIx) :
    (evaluateCells (samplePins pins s)).ports[j] = { s.ports[j] with
      flags := s.ports[j].flags |||
        flagIf ((List.finRange 8).any fun n => filtered (pushSample pins[n] s.gpis[n]) != filtered s.gpis[n]) .gpi } := by
  simp only [evaluateCells_ports]
  exact raiseIf_ports _ _ _ j

/-- The ports after a judgement: CLOCK where the lock state says so. -/
theorem judge_ports (edges : Nat) (s : State) (j : PortIx) :
    (judge edges s).ports[j] =
      { s.ports[j] with flags := s.ports[j].flags ||| flagIf (judged s.clock (edgesValid edges)).2 .clock } :=
  raiseIf_ports _ _ _ j

/-- The ports after a frame: CLIP where a flag goes from clear to set. -/
theorem frameComputation_ports (x : FrameIn) (s : State) (j : PortIx) :
    (frameComputation x s).ports[j] =
      { s.ports[j] with flags := s.ports[j].flags ||| flagIf (newClip s x) .clip } := by
  unfold frameComputation
  simp only [endFrame_ports]
  exact raiseIf_ports _ _ _ j

/-! ## How a control port command is answered -/

/-- A command is answered: its reply stands in the slot of its port, over a state that is the one before, or, with the result OK
or ADJUSTED, one whose ports are those before with flags raised. -/
def Answered (q : PortIx) (tag : Byte) (s t : State) : Prop :=
  ∃ (r : Result) (body : List Byte) (s' : State) (b : BitVec 11), t = reply q tag r body s' ∧
    (∀ j : PortIx, s'.ports[j] = { s.ports[j] with flags := s.ports[j].flags ||| b }) ∧ s'.pending = s.pending ∧
    s'.inReset = s.inReset ∧ (s' = s ∨ r = .ok ∨ r = .adjusted)

/-- A reply over the state itself. -/
theorem answered_self {q : PortIx} {tag : Byte} {r : Result} {body : List Byte} {s : State} :
    Answered q tag s (reply q tag r body s) := ⟨r, body, s, 0, rfl, fun j => by simp, rfl, rfl, .inl rfl⟩

/-- OK or ADJUSTED over a state whose ports stand. -/
theorem answered_okOr {q : PortIx} {tag : Byte} {a : Bool} {body : List Byte} {s s' : State} (h : s'.ports = s.ports)
    (hp : s'.pending = s.pending) (hr : s'.inReset = s.inReset) : Answered q tag s (reply q tag (okOr a) body s') :=
  ⟨_, _, s', 0, rfl, fun j => by simp [h], hp, hr, .inr (by cases a <;> simp [okOr])⟩

/-- OK over a state whose ports stand. -/
theorem answered_ok {q : PortIx} {tag : Byte} {body : List Byte} {s s' : State} (h : s'.ports = s.ports)
    (hp : s'.pending = s.pending) (hr : s'.inReset = s.inReset) : Answered q tag s (reply q tag .ok body s') :=
  ⟨_, _, s', 0, rfl, fun j => by simp [h], hp, hr, .inr (.inl rfl)⟩

/-- OK or ADJUSTED over a state that raised flags. -/
theorem answered_raised {q : PortIx} {tag : Byte} {r : Result} {body : List Byte} {s s' : State} (b : BitVec 11)
    (h : ∀ j : PortIx, s'.ports[j] = { s.ports[j] with flags := s.ports[j].flags ||| b })
    (hp : s'.pending = s.pending) (hr : s'.inReset = s.inReset) (ho : r = .ok ∨ r = .adjusted) :
    Answered q tag s (reply q tag r body s') := ⟨r, body, s', b, rfl, h, hp, hr, .inr ho⟩

/-- The result okOr gives. -/
theorem okOr_cases (a : Bool) : okOr a = .ok ∨ okOr a = .adjusted := by cases a <;> simp [okOr]

end Sys2Proof.Machine
end

