-- ==== Sys2Proof/Laws/Arith.lean ====
section
/-! SUPPORT. The arithmetic of chapter 3: the range of clamped values, the table of gain codes against its formula, and the range of
level codes. -/

namespace Sys2Proof.Machine

/-! ## Clamped values and samples (R52) -/

/-- A clamped value lies in the sample range. -/
theorem sat_range (x : Int) : -8388608 ≤ sat x ∧ sat x ≤ 8388607 := by unfold sat; omega

/-- A value in the sample range is not changed. -/
theorem sat_of_range {x : Int} (h1 : -8388608 ≤ x) (h2 : x ≤ 8388607) : sat x = x := by unfold sat; omega

/-- Clamping twice is clamping once. -/
@[simp] theorem sat_sat (x : Int) : sat (sat x) = sat x := by unfold sat; omega

/-- A value saturates exactly outside the sample range. -/
theorem saturates_iff (x : Int) : saturates x = true ↔ x < -8388608 ∨ 8388607 < x := by
  simp only [saturates, bne_iff_ne, ne_eq, sat]; omega

/-- A value in the sample range is the value of its sample. -/
theorem toSample_toInt {x : Int} (h1 : -8388608 ≤ x) (h2 : x ≤ 8388607) : (toSample x).toInt = x := by
  unfold toSample
  rw [BitVec.toInt_ofInt, Int.bmod_def]
  split <;> omega

/-- The sample of a clamped value. -/
@[simp] theorem toSample_sat (x : Int) : (toSample (sat x)).toInt = sat x := toSample_toInt (sat_range x).1 (sat_range x).2

/-- A sample lies in the sample range. -/
theorem sample_range (x : Sample) : -8388608 ≤ x.toInt ∧ x.toInt ≤ 8388607 := by
  have h1 := BitVec.le_toInt x
  have h2 := BitVec.toInt_lt (x := x)
  norm_num at h1 h2
  omega

/-- Rounding divides by 16384: a multiple comes out exact. -/
@[simp] theorem rnd_mul (x : Int) : rnd (x * 16384) = x := by unfold rnd; omega

/-! ## Gain codes (R51) -/

/-- No coefficient is larger than that of code 0. -/
theorem coef_le (v : Byte) : coef v ≤ 32690 := by
  have h : ∀ n : Fin 256, gainTable.getD n.val 0 ≤ 32690 := by decide +kernel
  exact h ⟨v.toNat, v.isLt⟩

/-- OFF has the coefficient 0, and so has every code above 192. -/
theorem coef_off (v : Byte) (h : 192 < v.toNat) : coef v = 0 := by
  have h' : ∀ n : Fin 256, 192 < n.val → gainTable.getD n.val 0 = 0 := by decide +kernel
  exact h' ⟨v.toNat, v.isLt⟩ h

/-- Each entry c of the table is 16384 x 10^((12 - v)/40) with a half rounded up: 2c - 1 and 2c + 1 bound its double, here
raised to the power 40, from below and strictly from above (R51). -/
theorem gainTable_rounds : ∀ v : Fin 193,
    (2 * gainTable.getD v.val 0 - 1) ^ 40 * 10 ^ v.val ≤ 32768 ^ 40 * 10 ^ 12 ∧
      32768 ^ 40 * 10 ^ 12 < (2 * gainTable.getD v.val 0 + 1) ^ 40 * 10 ^ v.val := by decide +kernel

/-! ## Level codes (R152) -/

/-- A level code is at most 15. -/
theorem levelCode_le (m : Nat) : levelCode m ≤ 15 := by unfold levelCode; omega

/-- The magnitude of any value is at most 8388607. -/
theorem magnitude_le (x : Int) : magnitude x ≤ 8388607 := by unfold magnitude; omega

end Sys2Proof.Machine
end

