-- ==== Sys2Proof/Laws/Commands.lean ====
section
/-! SUPPORT. One lemma for each control port command: how it is answered; and one more: what it changes beside the ports. -/

namespace Sys2Proof.Machine

variable (q : PortIx) (tag : Byte) (pl : List Byte) (s : State)

/-! ## How each command is answered -/

theorem plainRead_answered (body : State → List Byte) : Answered q tag s (plainRead body q tag pl s) := by
  unfold plainRead; split <;> exact answered_self

theorem readParty_answered : Answered q tag s (readParty q tag pl s) := by
  unfold readParty; repeat' split
  all_goals exact answered_self

theorem stateCommand_answered (names : Bool) (allows : Role → Programme → Bool) (limited : Bool)
    (move : Kind → PState → Option PState) : Answered q tag s (stateCommand names allows limited move q tag pl s) := by
  unfold stateCommand; repeat' split
  all_goals first
    | exact answered_self
    | exact answered_raised _ (changeState_ports _ _ _ s) (by simp) (by simp) (.inl rfl)

theorem setParty_answered : Answered q tag s (setParty q tag pl s) := by
  unfold setParty; repeat' split
  all_goals first
    | exact answered_self
    | exact answered_raised _ (storeParty_ports _ _ s) (by simp) (by simp) (okOr_cases _)

theorem setSend_answered : Answered q tag s (setSend q tag pl s) := by
  unfold setSend; repeat' split
  all_goals first | exact answered_self | exact answered_okOr (by simp) (by simp) (by simp)

theorem setMonitor_answered : Answered q tag s (setMonitor q tag pl s) := by
  unfold setMonitor; repeat' split
  all_goals first | exact answered_self | exact answered_ok rfl rfl rfl

theorem setLineTiming_answered : Answered q tag s (setLineTiming q tag pl s) := by
  unfold setLineTiming; repeat' split
  all_goals first | exact answered_self | exact answered_okOr rfl rfl rfl

theorem setClock_answered : Answered q tag s (setClock q tag pl s) := by
  unfold setClock; repeat' split
  all_goals first | exact answered_self | exact answered_okOr rfl rfl rfl

theorem keyCommand_answered : Answered q tag s (keyCommand q tag pl s) := by
  unfold keyCommand; repeat' split
  all_goals first | exact answered_self | exact answered_ok (by simp) (by simp) (by simp)

theorem setKey_answered : Answered q tag s (setKey q tag pl s) := by
  unfold setKey; repeat' split
  all_goals first | exact answered_self | exact answered_okOr (by simp) (by simp) (by simp)

theorem writeSteps_answered : Answered q tag s (writeSteps q tag pl s) := by
  unfold writeSteps; repeat' split
  all_goals first | exact answered_self | exact answered_okOr rfl rfl rfl

theorem writePitches_answered : Answered q tag s (writePitches q tag pl s) := by
  unfold writePitches; repeat' split
  all_goals first | exact answered_self | exact answered_okOr rfl rfl rfl

theorem readToneMemory_answered : Answered q tag s (readToneMemory q tag pl s) := by
  unfold readToneMemory; repeat' split
  all_goals exact answered_self

theorem setPlayer_answered : Answered q tag s (setPlayer q tag pl s) := by
  unfold setPlayer; repeat' split
  all_goals first | exact answered_self | exact answered_okOr rfl rfl rfl

/-- A result of START, STOP or ABORT that is not OK leaves the player as it stands. -/
theorem players_stand (x : Player) :
    ((startPlayer x).2 = .ok ∨ (startPlayer x).1 = x) ∧ ((stopPlayer x).2 = .ok ∨ (stopPlayer x).1 = x) ∧
      ((abortPlayer x).2 = .ok ∨ (abortPlayer x).1 = x) := by
  unfold startPlayer stopPlayer abortPlayer
  refine ⟨?_, ?_, ?_⟩ <;> (repeat' split) <;> simp

theorem playerCommand_answered (f : Player → Player × Result) (hf : ∀ x, (f x).2 = .ok ∨ (f x).1 = x) :
    Answered q tag s (playerCommand f q tag pl s) := by
  unfold playerCommand; repeat' split
  all_goals first
    | exact answered_self
    | skip
  next j _ =>
    rcases hf s.players[j] with h | h
    · exact answered_raised 0 (by simp) rfl rfl (.inl h)
    · refine ⟨_, _, _, 0, rfl, by simp, rfl, rfl, .inl ?_⟩
      rw [h]; simp

theorem setToneRoute_answered : Answered q tag s (setToneRoute q tag pl s) := by
  unfold setToneRoute; repeat' split
  all_goals first | exact answered_self | exact answered_okOr rfl rfl rfl

theorem setDelay_answered : Answered q tag s (setDelay q tag pl s) := by
  unfold setDelay
  split
  · split
    · exact answered_self
    · split
      · split
        · exact answered_okOr (by rfl) (by rfl) (by rfl)
        · exact answered_self
      · exact answered_self
  · exact answered_self

/-- A result of a dump request that is not OK leaves the delay as it stands. -/
theorem dumpRequest_stands (d : Delay) : (dumpRequest d).2 = .ok ∨ (dumpRequest d).1 = d := by
  unfold dumpRequest; (repeat' split) <;> simp

theorem dump_answered : Answered q tag s (dump q tag pl s) := by
  unfold dump; repeat' split
  all_goals first | exact answered_self | skip
  next k _ _ =>
    rcases dumpRequest_stands s.delays[k] with h | h
    · exact answered_raised 0 (by simp) rfl rfl (.inl h)
    · refine ⟨_, _, _, 0, rfl, by simp, rfl, rfl, .inl ?_⟩
      rw [h]; simp

theorem setMemorySize_answered : Answered q tag s (setMemorySize q tag pl s) := by
  unfold setMemorySize; repeat' split
  all_goals first | exact answered_self | exact answered_okOr rfl rfl rfl

theorem setMetering_answered : Answered q tag s (setMetering q tag pl s) := by
  unfold setMetering; repeat' split
  all_goals first | exact answered_self | exact answered_okOr rfl rfl rfl

theorem clearClips_answered : Answered q tag s (clearClips q tag pl s) := by
  unfold clearClips; repeat' split
  all_goals first | exact answered_ok rfl rfl rfl | exact answered_self

theorem setSupervisor_answered : Answered q tag s (setSupervisor q tag pl s) := by
  unfold setSupervisor; repeat' split
  all_goals first
    | exact answered_self
    | exact answered_raised _ (fun j => raiseIf_ports _ _ _ j) (by simp) (by simp) (okOr_cases _)

theorem setCell_answered : Answered q tag s (setCell q tag pl s) := by
  unfold setCell; dsimp only; repeat' split
  all_goals first | exact answered_self | exact answered_okOr rfl rfl rfl

theorem setGpo_answered : Answered q tag s (setGpo q tag pl s) := by
  unfold setGpo; repeat' split
  all_goals first | exact answered_self | exact answered_ok rfl rfl rfl

/-- Every control port command but NOP, READ EVENTS and SET EVENT MASK is answered. -/
theorem port_answered (c : Instr) (q : PortIx) (bytes : List Byte) (s : State) (he : encodeFrame c = some (q, bytes))
    (h1 : ∀ a b d, c ≠ .nop a b d) (h2 : ∀ a b d, c ≠ .readEvents a b d) (h3 : ∀ a b d, c ≠ .setEventMask a b d) :
    ∃ tag e, exec c s = live s e ∧ Answered q tag s e := by
  cases c
  all_goals simp only [encodeFrame, Option.some.injEq, Prod.mk.injEq, reduceCtorEq] at he
  all_goals try obtain ⟨rfl, -⟩ := he
  case frameAnswer => exact ⟨_, _, rfl, answered_self⟩
  case unknownCommand => exact ⟨_, _, rfl, answered_self⟩
  case nop => exact absurd rfl (h1 _ _ _)
  case readEvents => exact absurd rfl (h2 _ _ _)
  case setEventMask => exact absurd rfl (h3 _ _ _)
  case readParty => exact ⟨_, _, rfl, readParty_answered ..⟩
  case setParty => exact ⟨_, _, rfl, setParty_answered ..⟩
  case setSend => exact ⟨_, _, rfl, setSend_answered ..⟩
  case setMonitor => exact ⟨_, _, rfl, setMonitor_answered ..⟩
  case setLineTiming => exact ⟨_, _, rfl, setLineTiming_answered ..⟩
  case setClock => exact ⟨_, _, rfl, setClock_answered ..⟩
  case key => exact ⟨_, _, rfl, keyCommand_answered ..⟩
  case setKey => exact ⟨_, _, rfl, setKey_answered ..⟩
  case writeSteps => exact ⟨_, _, rfl, writeSteps_answered ..⟩
  case writePitches => exact ⟨_, _, rfl, writePitches_answered ..⟩
  case readToneMemory => exact ⟨_, _, rfl, readToneMemory_answered ..⟩
  case setPlayer => exact ⟨_, _, rfl, setPlayer_answered ..⟩
  case start => exact ⟨_, _, rfl, playerCommand_answered _ _ _ _ _ fun x => (players_stand x).1⟩
  case stop => exact ⟨_, _, rfl, playerCommand_answered _ _ _ _ _ fun x => (players_stand x).2.1⟩
  case abort => exact ⟨_, _, rfl, playerCommand_answered _ _ _ _ _ fun x => (players_stand x).2.2⟩
  case setToneRoute => exact ⟨_, _, rfl, setToneRoute_answered ..⟩
  case setDelay => exact ⟨_, _, rfl, setDelay_answered ..⟩
  case dump => exact ⟨_, _, rfl, dump_answered ..⟩
  case setMemorySize => exact ⟨_, _, rfl, setMemorySize_answered ..⟩
  case setMetering => exact ⟨_, _, rfl, setMetering_answered ..⟩
  case clearClips => exact ⟨_, _, rfl, clearClips_answered ..⟩
  case setSupervisor => exact ⟨_, _, rfl, setSupervisor_answered ..⟩
  case setCell => exact ⟨_, _, rfl, setCell_answered ..⟩
  case setGpo => exact ⟨_, _, rfl, setGpo_answered ..⟩
  all_goals first
    | exact ⟨_, _, rfl, plainRead_answered ..⟩
    | exact ⟨_, _, rfl, stateCommand_answered ..⟩

/-! ## What each command changes -/

theorem raise_changes (e : Event) : raise e s = { s with ports := (raise e s).ports } := rfl

theorem raiseIf_changes (b : Bool) (e : Event) : raiseIf b e s = { s with ports := (raiseIf b e s).ports } := by
  cases b <;> rfl

theorem plainRead_changes (body : State → List Byte) :
    plainRead body q tag pl s = { s with ports := (plainRead body q tag pl s).ports } := by
  unfold plainRead; split <;> rfl

theorem readEvents_changes : readEvents q tag pl s = { s with ports := (readEvents q tag pl s).ports } := by
  unfold readEvents; split <;> rfl

theorem setEventMask_changes : setEventMask q tag pl s = { s with ports := (setEventMask q tag pl s).ports } := by
  unfold setEventMask; split <;> rfl

theorem readParty_changes : readParty q tag pl s = { s with ports := (readParty q tag pl s).ports } := by
  unfold readParty; (repeat' split) <;> rfl

theorem changeState_changes (p : PartyIx) (st : PState) (k : Programme) :
    changeState p st k s = { s with
      parties := (changeState p st k s).parties, foldBacks := (changeState p st k s).foldBacks
      lines := (changeState p st k s).lines, ports := (changeState p st k s).ports } := by
  unfold changeState onLine; split <;> rfl

theorem stateCommand_changes (names : Bool) (allows : Role → Programme → Bool) (limited : Bool)
    (move : Kind → PState → Option PState) :
    stateCommand names allows limited move q tag pl s =
      { s with
        parties := (stateCommand names allows limited move q tag pl s).parties
        foldBacks := (stateCommand names allows limited move q tag pl s).foldBacks
        lines := (stateCommand names allows limited move q tag pl s).lines
        ports := (stateCommand names allows limited move q tag pl s).ports } := by
  unfold stateCommand
  repeat' split
  all_goals first
    | rfl
    | (unfold changeState onLine; split <;> rfl)

theorem applyCause_changes (kind : Kind) (froms : List PState) (next : PState) (ev : Option Event) (p : PartyIx) :
    applyCause kind froms next ev p s = { s with
      parties := (applyCause kind froms next ev p s).parties, foldBacks := (applyCause kind froms next ev p s).foldBacks
      lines := (applyCause kind froms next ev p s).lines, ports := (applyCause kind froms next ev p s).ports } := by
  unfold applyCause changeState onLine
  repeat' split
  all_goals rfl

theorem setParty_changes :
    setParty q tag pl s = { s with
      parties := (setParty q tag pl s).parties, foldBacks := (setParty q tag pl s).foldBacks
      ports := (setParty q tag pl s).ports } := by
  unfold setParty
  repeat' split
  all_goals first
    | rfl
    | (dsimp only; unfold storeParty raiseIf; split <;> rfl)

theorem setSend_changes :
    setSend q tag pl s =
      { s with mix := { s.mix with sends := (setSend q tag pl s).mix.sends }, ports := (setSend q tag pl s).ports } := by
  unfold setSend; (repeat' split) <;> rfl

theorem setMonitor_changes :
    setMonitor q tag pl s =
      { s with
        mix := { s.mix with monitor := (setMonitor q tag pl s).mix.monitor }, ports := (setMonitor q tag pl s).ports } := by
  unfold setMonitor; (repeat' split) <;> rfl

theorem setLineTiming_changes :
    setLineTiming q tag pl s =
      { s with dropCode := (setLineTiming q tag pl s).dropCode, ports := (setLineTiming q tag pl s).ports } := by
  unfold setLineTiming; (repeat' split) <;> rfl

theorem setClock_changes :
    setClock q tag pl s =
      { s with
        clock := { s.clock with exponent := (setClock q tag pl s).clock.exponent }, ports := (setClock q tag pl s).ports } := by
  unfold setClock; (repeat' split) <;> rfl

theorem keyCommand_changes :
    keyCommand q tag pl s = { s with
      keys := (keyCommand q tag pl s).keys, foldBacks := (keyCommand q tag pl s).foldBacks
      ports := (keyCommand q tag pl s).ports } := by
  unfold keyCommand; (repeat' split) <;> rfl

theorem setKey_changes :
    setKey q tag pl s = { s with
      keys := (setKey q tag pl s).keys, foldBacks := (setKey q tag pl s).foldBacks, ports := (setKey q tag pl s).ports } := by
  unfold setKey; (repeat' split) <;> rfl

theorem writeSteps_changes :
    writeSteps q tag pl s = { s with steps := (writeSteps q tag pl s).steps, ports := (writeSteps q tag pl s).ports } := by
  unfold writeSteps; (repeat' split) <;> rfl

theorem writePitches_changes :
    writePitches q tag pl s =
      { s with pitches := (writePitches q tag pl s).pitches, ports := (writePitches q tag pl s).ports } := by
  unfold writePitches; (repeat' split) <;> rfl

theorem readToneMemory_changes : readToneMemory q tag pl s = { s with ports := (readToneMemory q tag pl s).ports } := by
  unfold readToneMemory; (repeat' split) <;> rfl

theorem setPlayer_changes :
    setPlayer q tag pl s = { s with players := (setPlayer q tag pl s).players, ports := (setPlayer q tag pl s).ports } := by
  unfold setPlayer; (repeat' split) <;> rfl

theorem playerCommand_changes (f : Player → Player × Result) :
    playerCommand f q tag pl s =
      { s with players := (playerCommand f q tag pl s).players, ports := (playerCommand f q tag pl s).ports } := by
  unfold playerCommand; (repeat' split) <;> rfl

theorem setToneRoute_changes :
    setToneRoute q tag pl s = { s with routes := (setToneRoute q tag pl s).routes, ports := (setToneRoute q tag pl s).ports } := by
  unfold setToneRoute; (repeat' split) <;> rfl

theorem setDelay_changes :
    setDelay q tag pl s = { s with delays := (setDelay q tag pl s).delays, ports := (setDelay q tag pl s).ports } := by
  unfold setDelay
  split
  · split
    · rfl
    · split
      · split <;> rfl
      · rfl
  · rfl

theorem dump_changes :
    dump q tag pl s = { s with delays := (dump q tag pl s).delays, ports := (dump q tag pl s).ports } := by
  unfold dump; (repeat' split) <;> rfl

theorem setMemorySize_changes :
    setMemorySize q tag pl s = { s with
      memSize := (setMemorySize q tag pl s).memSize, delays := (setMemorySize q tag pl s).delays
      ports := (setMemorySize q tag pl s).ports } := by
  unfold setMemorySize; (repeat' split) <;> rfl

theorem setMetering_changes :
    setMetering q tag pl s = { s with
      meter := (setMetering q tag pl s).meter, points := (setMetering q tag pl s).points
      ports := (setMetering q tag pl s).ports } := by
  unfold setMetering; (repeat' split) <;> rfl

theorem clearClips_changes :
    clearClips q tag pl s = { s with points := (clearClips q tag pl s).points, ports := (clearClips q tag pl s).ports } := by
  unfold clearClips
  split
  · split
    · split <;> rfl
    · rfl
  · rfl

theorem setSupervisor_changes :
    setSupervisor q tag pl s = { s with sups := (setSupervisor q tag pl s).sups, ports := (setSupervisor q tag pl s).ports } := by
  unfold setSupervisor
  repeat' split
  all_goals first
    | rfl
    | (dsimp only; unfold raiseIf; split <;> rfl)

theorem setCell_changes :
    setCell q tag pl s = { s with cells := (setCell q tag pl s).cells, ports := (setCell q tag pl s).ports } := by
  unfold setCell; dsimp only; (repeat' split) <;> rfl

theorem setGpo_changes :
    setGpo q tag pl s = { s with gpos := (setGpo q tag pl s).gpos, ports := (setGpo q tag pl s).ports } := by
  unfold setGpo; (repeat' split) <;> rfl

/-- An event raised over new delays and records changes those and the ports alone. -/
theorem raiseIf_delays_changes (b : Bool) (e : Event) (m : MemSize) (D : Vector Delay 2) (P : Vector PartyRec 24) :
    raiseIf b e { s with delays := D, parties := P, memInUse := m } = { s with
      delays := (raiseIf b e { s with delays := D, parties := P, memInUse := m }).delays
      parties := (raiseIf b e { s with delays := D, parties := P, memInUse := m }).parties
      memInUse := (raiseIf b e { s with delays := D, parties := P, memInUse := m }).memInUse
      ports := (raiseIf b e { s with delays := D, parties := P, memInUse := m }).ports } := by
  cases b <;> rfl

theorem delayPeriod_changes (k : Programme) :
    delayPeriod k s = { s with
      delays := (delayPeriod k s).delays, parties := (delayPeriod k s).parties, memInUse := (delayPeriod k s).memInUse
      ports := (delayPeriod k s).ports } := by
  unfold delayPeriod testGuards
  exact raiseIf_delays_changes _ _ _ _ _ _

/-- The period start of a delay takes the memory size mode stored into use (R113). -/
@[simp] theorem delayPeriod_memInUse (k : Programme) : (delayPeriod k s).memInUse = s.memSize := by
  unfold delayPeriod testGuards raiseIf; split <;> rfl

/-- A frame takes the memory size mode stored into use (R113). -/
@[simp] theorem frameComputation_memInUse (x : FrameIn) : (frameComputation x s).memInUse = s.memSize := by
  unfold frameComputation endFrame raiseIf; (repeat' split) <;> rfl

/-- A frame begins without an access on the delay memory port (R197). -/
@[simp] theorem frameComputation_memPort (x : FrameIn) : (frameComputation x s).memPort = Vector.replicate 2 [] := by
  unfold frameComputation endFrame raiseIf; (repeat' split) <;> rfl

theorem meterPeriod_changes :
    meterPeriod s = { s with
      meter := (meterPeriod s).meter, points := (meterPeriod s).points, sups := (meterPeriod s).sups
      ports := (meterPeriod s).ports } := by
  unfold meterPeriod
  split
  · split <;> rfl
  · split
    · unfold afterMeasurement completeMeasurement raiseIf
      split <;> split <;> rfl
    · rfl
  · split
    · rfl
    · rfl
    · split <;> rfl

theorem playerPeriod_changes (j : PlayerIx) :
    playerPeriod j s = { s with players := (playerPeriod j s).players, ports := (playerPeriod j s).ports } := by
  unfold playerPeriod raiseIf; split <;> rfl

end Sys2Proof.Machine
end

