-- ==== Sys2Proof/Laws/Frames.lean ====
section
/-! SUPPORT. A frame: what it forms, sends and meters, the ranges of its values, and the parts of a slot. -/

namespace Sys2Proof.Machine

/-! ## What a frame leaves -/

/-- The values a frame forms. -/
theorem fc_formed (x s) : (frameComputation x s).formed = formedAfter s x := by
  unfold frameComputation endFrame; split <;> (unfold raiseIf; split <;> rfl)

/-- The slots a frame sends. -/
theorem fc_sent (x s) : (frameComputation x s).sent = sentAfter s := by
  unfold frameComputation endFrame; split <;> (unfold raiseIf; split <;> rfl)

/-- The values formed become those formed before. -/
theorem fc_before (x s) : (frameComputation x s).formedBefore = s.formed := by
  unfold frameComputation endFrame; split <;> (unfold raiseIf; split <;> rfl)

/-- The meter points after a frame. -/
theorem fc_points (x s) (n : PointIx) : (frameComputation x s).points[n] = pointAfter s x n := by
  have : (frameComputation x s).points = Vector.ofFn fun n : PointIx => pointAfter s x n := by
    unfold frameComputation endFrame; split <;> (unfold raiseIf; split <;> rfl)
  rw [this]; exact ofFn_get _ _

/-- What ME holds for a party after a period start. -/
theorem pm_get (s : State) (p : PartyIx) : (mePeriod s).partyMix[p] = partyMixAfter s p := ofFn_get _ _

/-! ## Ranges -/

/-- A sample scaled by a coefficient of at most 16384 stays a sample. -/
theorem frame16 (a : Int) (i : FrameIx) (c : Int) (h1 : 0 ≤ c) (h2 : c ≤ 16384) (ha : -8388608 ≤ a) (hb : a ≤ 8388607) : -8388608 ≤ rnd (a * c) ∧ rnd (a * c) ≤ 8388607 := by
  unfold rnd
  have e1 : a * c ≤ 8388607 * 16384 := by nlinarith
  have e2 : -8388608 * 16384 ≤ a * c := by nlinarith
  omega

/-- The fade-out coefficients. -/
theorem fo_range (i : FrameIx) : 0 ≤ fadeOut i ∧ fadeOut i ≤ 16384 := by unfold fadeOut; have := i.isLt; omega

/-- The fade-in coefficients. -/
theorem fi_range (i : FrameIx) : 0 ≤ fadeIn i ∧ fadeIn i ≤ 16384 := by unfold fadeIn; have := i.isLt; omega

/-- The coefficients of the realign dip (R195). -/
theorem dip_range (c : Clock) (i : FrameIx) : 0 ≤ dipCoef c i ∧ dipCoef c i ≤ 16384 := by
  unfold dipCoef; split
  · exact fo_range i
  · split
    · exact fi_range i
    · decide

/-- An air output is a sample (R115). -/
theorem air_range (st : DelayState) (v : Sample) (i : FrameIx) : -8388608 ≤ airValue st v i ∧ airValue st v i ≤ 8388607 := by
  have := sample_range v
  unfold airValue; split
  · exact frame16 _ i _ (fo_range i).1 (fo_range i).2 this.1 this.2
  · exact frame16 _ i _ (fi_range i).1 (fi_range i).2 this.1 this.2
  · exact this

/-- A sum over a list of all indexes as a sum over the type. -/
theorem sum_fin {n : Nat} (f : Fin n → Int) : ((List.finRange n).map f).sum = ∑ i, f i := by
  rw [← List.ofFn_eq_map, List.sum_ofFn]

/-! ## Slots (R192) -/

/-- The bits of a slot. -/
theorem app_get (v : Sample) (b : Byte) (i : Nat) : (v ++ b : BitVec 32).getLsbD i = if i < 8 then b.getLsbD i else v.getLsbD (i-8) := by
  have := @BitVec.getLsbD_append 24 8 i v b
  simpa using this

/-- The audio bits of a slot. -/
theorem slot_audio (v : Sample) (b : Byte) : (v ++ b : BitVec 32).extractLsb' 8 24 = v := by
  apply BitVec.eq_of_getLsbD_eq; intro i hi
  rw [BitVec.getLsbD_extractLsb', app_get]; simp [hi]

/-- The auxiliary bits of a slot. -/
theorem slot_low (v : Sample) (b : Byte) (i : Nat) (h : i < 8) : (v ++ b : BitVec 32).getLsbD i = b.getLsbD i := by
  rw [app_get, if_pos h]

end Sys2Proof.Machine
end

