-- ==== Sys2Proof/Laws/Lists.lean ====
section
/-! SUPPORT. The delay memory and its canonical form, the lengths of the delays, selection over a request list, and the lengths of
the reply bodies. -/

namespace Sys2Proof.Machine

/-! ## The delay memory (R112) -/

/-- A word read where one was written. -/
theorem sramRead_write_same {α : Type} (m : List (Nat × α)) (a v) : sramRead (sramWrite m a v) a = some v := by
  induction m with
  | nil => simp [sramWrite, sramRead]
  | cons e m ih =>
    obtain ⟨b, w⟩ := e
    simp only [sramWrite]
    split
    · simp [sramRead]
    · split
      · simp [sramRead]
      · simp only [sramRead]; rw [if_neg (by omega)]; exact ih

/-- A write leaves every other word. -/
theorem sramRead_write_other {α : Type} (m : List (Nat × α)) (a c v) (h : c ≠ a) : sramRead (sramWrite m a v) c = sramRead m c := by
  induction m with
  | nil => simp [sramWrite, sramRead, h.symm]
  | cons e m ih =>
    obtain ⟨b, w⟩ := e
    simp only [sramWrite]
    split
    · simp only [sramRead]; rw [if_neg h.symm]
    · split
      · rename_i hab; subst hab; simp only [sramRead]; rw [if_neg h.symm, if_neg h.symm]
      · simp only [sramRead]; rw [ih]

/-- The entries after a write are the one written and those before. -/
theorem mem_sramWrite {α : Type} {m : List (Nat × α)} {a v e} (h : e ∈ sramWrite m a v) : e = (a, v) ∨ e ∈ m := by
  induction m with
  | nil => simpa [sramWrite] using h
  | cons x m ih =>
    obtain ⟨b, w⟩ := x
    simp only [sramWrite] at h
    split at h
    · simpa using h
    · split at h
      · rcases List.mem_cons.1 h with h | h
        · exact .inl h
        · exact .inr (List.mem_cons_of_mem _ h)
      · rcases List.mem_cons.1 h with h | h
        · exact .inr (by simp [h])
        · rcases ih h with h | h
          · exact .inl h
          · exact .inr (List.mem_cons_of_mem _ h)

/-- A write keeps the canonical form. -/
theorem sramWrite_wf {α : Type} {m : List (Nat × α)} (h : Memory.wf m) (a v) : Memory.wf (sramWrite m a v) := by
  induction m with
  | nil => simp [sramWrite, Memory.wf]
  | cons x m ih =>
    obtain ⟨b, w⟩ := x
    have h' := List.pairwise_cons.1 h
    simp only [sramWrite]
    split
    · rename_i hab
      refine List.pairwise_cons.2 ⟨fun e he => ?_, h⟩
      rcases List.mem_cons.1 he with rfl | he
      · exact hab
      · exact lt_trans hab (h'.1 e he)
    · split
      · rename_i hab; subst hab
        exact List.pairwise_cons.2 ⟨h'.1, h'.2⟩
      · refine List.pairwise_cons.2 ⟨fun e he => ?_, ih h'.2⟩
        rcases mem_sramWrite he with rfl | he
        · simp only; omega
        · exact h'.1 e he

/-- A word once written stays written. -/
theorem sramRead_write_isSome {α : Type} {m : List (Nat × α)} {a c v} (h : (sramRead m c).isSome = true) :
    (sramRead (sramWrite m a v) c).isSome = true := by
  by_cases hc : c = a
  · subst hc; rw [sramRead_write_same]; rfl
  · rw [sramRead_write_other _ _ _ _ hc]; exact h

/-- A word is read exactly where it is listed. -/
theorem sramRead_isSome {α : Type} (m : List (Nat × α)) (a : Nat) : (sramRead m a).isSome = true ↔ a ∈ m.map Prod.fst := by
  induction m with
  | nil => simp [sramRead]
  | cons x m ih =>
    obtain ⟨b, v⟩ := x
    simp only [sramRead, List.map_cons, List.mem_cons]
    split
    · simp_all
    · rw [ih]; exact ⟨.inr, fun h => h.resolve_left (by omega)⟩

/-- The words listed after a write depend on the words listed before it alone. -/
theorem sramWrite_keys {α β : Type} {m : List (Nat × α)} {n : List (Nat × β)} (h : m.map Prod.fst = n.map Prod.fst) (a v w) :
    (sramWrite m a v).map Prod.fst = (sramWrite n a w).map Prod.fst := by
  induction m generalizing n with
  | nil =>
    cases n with
    | nil => rfl
    | cons y n => cases h
  | cons x m ih =>
    cases n with
    | nil => cases h
    | cons y n =>
      obtain ⟨b, x⟩ := x
      obtain ⟨c, y⟩ := y
      simp only [List.map_cons, List.cons.injEq] at h
      obtain ⟨rfl, h⟩ := h
      simp only [sramWrite]
      split
      · simp [h]
      · split
        · simp [h]
        · simp [ih h]

/-- The memory at reset has its canonical form. -/
theorem reset_sram_wf : Memory.wf State.reset.sram := List.Pairwise.nil

/-- The frame of a delay keeps the canonical form. -/
theorem sramAfter_wf (m : MemSize) {s : State} (h : Memory.wf s.sram) (k : Programme) (x : Sample) : Memory.wf (sramAfter m s k x) :=
  sramWrite_wf h _ _

/-- The frame of a delay keeps the record of writers for the words listed. -/
theorem writersAfter_keys (m : MemSize) {s : State} (h : s.writers.map Prod.fst = s.sram.map Prod.fst) (k : Programme)
    (x : Sample) : (writersAfter m s k).map Prod.fst = (sramAfter m s k x).map Prod.fst := sramWrite_keys h _ _ _

/-- The word read in an insert frame is one the delay itself wrote, where the word at Rd is (R112). -/
theorem insertCount_own (m : MemSize) (s : State) (k : Programme)
    (h : sramRead (writersAfter m s k) (wordAddr m k s.delays[k].rd) = some k) :
    sramRead (writersAfter m s k) (wordAddr m k (insertCount m s k)) = some k := by
  unfold insertCount; dsimp only; split <;> assumption

/-- A delay has words. -/
theorem capacity_pos (m : MemSize) : 0 < m.capacity := by cases m <;> decide

/-- Every word address is one of the 2^22 of the port (R112, R197). -/
theorem wordAddr_lt (m : MemSize) (k : Programme) (x : Count) : wordAddr m k x < 4194304 := by
  unfold wordAddr
  have h1 := Nat.mod_lt x.toNat (capacity_pos m)
  have h2 : 2 * m.capacity ≤ 4194304 := by cases m <;> decide
  have h3 : k.val * m.capacity ≤ 1 * m.capacity := Nat.mul_le_mul_right _ (by omega)
  omega

/-! ## Lengths of delays (R114 to R124) -/

/-- An insert frame leaves the length one longer (R120). -/
theorem length_insert (d : Delay) (h : d.length < 4294967295) : ((d.w + 1) - d.rd).toNat = d.length + 1 := by
  unfold Delay.length at *; bv_omega

/-- A normal frame leaves the length (R115). -/
theorem length_normal (w rd : Count) : ((w + 1) - (rd + 1)) = w - rd := by bv_omega

/-- A skip frame leaves the length one shorter (R121). -/
theorem length_skip (d : Delay) (h : 0 < d.length) : ((d.w + 1) - (d.rd + 2)).toNat = d.length - 1 := by
  unfold Delay.length at *; bv_omega

/-- No mode has a length that comes near the range of a count. -/
theorem lMax_lt (m : MemSize) : m.lMax < 4294967295 := by cases m <;> decide

/-- The target maximum is L_max (R112). -/
theorem target_max (m : MemSize) : 32 * m.targetMax = m.lMax := by cases m <;> rfl

/-- A dump request touches the count of dumps and the pending mark alone (R122). -/
theorem dumpRequest_rest (d : Delay) : (dumpRequest d).1 = { d with dumps := (dumpRequest d).1.dumps, dumpPending := (dumpRequest d).1.dumpPending } := by
  unfold dumpRequest; (repeat' split) <;> rfl

/-- A jump goes no further than the length (R124). -/
theorem jump_le (d : Delay) : jumpOf d ≤ d.length := by unfold jumpOf; split <;> omega

/-- A jump takes its frames from the length (R124). -/
theorem length_jump (d : Delay) (j : Nat) (h : j ≤ d.length) : (d.w - (d.rd + BitVec.ofNat 32 j)).toNat = d.length - j := by
  unfold Delay.length at *
  have : j < 4294967296 := by omega
  have e : (BitVec.ofNat 32 j).toNat = j := by simp; omega
  generalize hb : BitVec.ofNat 32 j = b at *
  bv_omega

/-! ## Selection over a request list (R97) -/

/-- What selection finds is the key of R97. -/
theorem selectKey_selected {pri : KeyIx → Nat} {l : List KeyIx} {k : KeyIx} (h : selectKey pri l = some k) : Selected pri l k := by
  induction l generalizing k with
  | nil => simp [selectKey] at h
  | cons a l ih =>
    simp only [selectKey] at h
    split at h
    · rename_i hn
      cases h
      have : l = [] := by
        cases l with
        | nil => rfl
        | cons b l => simp only [selectKey] at hn; split at hn <;> (try split at hn) <;> cases hn
      subst this
      exact ⟨[], [], rfl, by simp, by simp⟩
    · rename_i j hj
      obtain ⟨b, c, rfl, h1, h2⟩ := ih hj
      split at h
      · cases h
        exact ⟨a :: b, c, rfl, by simpa [*] using h1, h2⟩
      · cases h
        refine ⟨[], b ++ j :: c, rfl, by simp, fun i hi => ?_⟩
        rcases List.mem_append.1 hi with hi | hi
        · have := h1 i hi; omega
        · rcases List.mem_cons.1 hi with rfl | hi
          · omega
          · have := h2 i hi; omega

/-- Selection finds nothing in an empty list alone. -/
theorem selectKey_none {pri : KeyIx → Nat} {l : List KeyIx} : selectKey pri l = none ↔ l = [] := by
  cases l with
  | nil => simp [selectKey]
  | cons a l => simp only [selectKey]; split <;> (try split) <;> simp

/-- The key of R97 is in the list. -/
theorem Selected.mem {pri : KeyIx → Nat} {l : List KeyIx} {k : KeyIx} (h : Selected pri l k) : k ∈ l := by
  obtain ⟨b, c, rfl, -, -⟩ := h; simp

/-- No listed key has a higher priority than the key of R97. -/
theorem Selected.least {pri : KeyIx → Nat} {l : List KeyIx} {k : KeyIx} (h : Selected pri l k) : ∀ j ∈ l, pri k ≤ pri j := by
  obtain ⟨b, c, rfl, h1, h2⟩ := h
  intro j hj
  rcases List.mem_append.1 hj with hj | hj
  · exact (h1 j hj).le
  · rcases List.mem_cons.1 hj with rfl | hj
    · exact le_rfl
    · exact h2 j hj

/-- Serving keeps the list. -/
@[simp] theorem serve_list (pri : KeyIx → Nat) (e c : Bool) (f : FoldBack) : (serve pri e c f).list = f.list := by
  unfold serve; split <;> rfl

/-- Serving a context without service (R97). -/
theorem serve_inService (pri : KeyIx → Nat) (e c : Bool) (f : FoldBack) (h : f.inService = none) :
    (serve pri e c f).inService = if e && c then selectKey pri f.list else none := by
  unfold serve; cases e <;> cases c <;> simp [h]

/-- A request keeps the order of the list, and appends a key that it takes (R98). -/
theorem takeRequest_list (pri : KeyIx → Nat) (e c : Bool) (k : KeyIx) (f : FoldBack) :
    (takeRequest pri e c k f).list = if c = false ∨ k ∈ f.list then f.list else f.list ++ [k] := by
  unfold takeRequest
  by_cases h : (!c || f.list.contains k) = true
  · rw [if_pos h, if_pos (by simpa using h)]
  · have h2 : ¬(c = false ∨ k ∈ f.list) := by simpa using h
    rw [if_neg h, if_neg h2]
    dsimp only
    split
    · rfl
    · split
      · simp
      · split <;> rfl

/-- A release takes its key out of the list and keeps the order of the rest (R99). -/
theorem takeRelease_list (pri : KeyIx → Nat) (e c : Bool) (k : KeyIx) (f : FoldBack) :
    (takeRelease pri e c k f).list = f.list.erase k := by
  unfold takeRelease
  split
  · split
    · simp
    · rfl
  · rename_i h
    rw [List.erase_of_not_mem (by simpa using h)]

/-- A reconsideration keeps the list (R100). -/
@[simp] theorem reconsider_list (pri : KeyIx → Nat) (e c : Bool) (f : FoldBack) : (reconsider pri e c f).list = f.list := by
  unfold reconsider
  split
  · simp
  · split
    · rfl
    · split <;> rfl

/-- An arrival of a key at a context is its release or its request there, and after it its reconsideration, or nothing: what all
three keep, it keeps (R105). -/
theorem keyTaken_keeps {P : FoldBack → Prop} {pri : KeyIx → Nat} {e c : Bool} {k : KeyIx} {f : FoldBack} (left joined changed : Bool)
    (hf : P f) (hRelease : ∀ g, P g → P (takeRelease pri e c k g)) (hRequest : ∀ g, P g → P (takeRequest pri e c k g))
    (hReconsider : ∀ g, P g → P (reconsider pri e c g)) : P (keyTaken pri e c k left joined changed f) := by
  unfold keyTaken
  have h : P (if left then takeRelease pri e c k f else if joined then takeRequest pri e c k f else f) := by
    split
    · exact hRelease f hf
    · split
      · exact hRequest f hf
      · exact hf
  dsimp only
  generalize (if left then takeRelease pri e c k f else if joined then takeRequest pri e c k f else f) = g at h ⊢
  split
  · exact hReconsider g h
  · exact h

/-- The list after an arrival of a key: without the key that leaves, with the key that joins, in its order otherwise (R105). -/
theorem keyTaken_list (pri : KeyIx → Nat) (e c : Bool) (k : KeyIx) (left joined changed : Bool) (f : FoldBack) :
    (keyTaken pri e c k left joined changed f).list =
      if left then f.list.erase k else if joined ∧ c = true ∧ k ∉ f.list then f.list ++ [k] else f.list := by
  unfold keyTaken
  dsimp only
  rw [apply_ite FoldBack.list, reconsider_list, ite_self]
  cases left
  · cases joined
    · rfl
    · simp only [Bool.false_eq_true, if_false, if_true, true_and, takeRequest_list]
      by_cases h1 : c = false <;> by_cases h2 : k ∈ f.list <;> simp [h1, h2]
  · simp only [if_true, takeRelease_list]

/-- A key stored gives each context what its arrival does there (R105). -/
@[simp] theorem storeKey_foldBacks (k : KeyIx) (new : Key) (s : State) (p : PartyIx) :
    (storeKey k new s).foldBacks[p] = foldBackStored k new s p := by unfold storeKey; simp

/-! ## Lengths of reply bodies (R198) -/

@[simp] theorem len_bytes16 (n : Nat) : (bytes16 n).length = 2 := rfl
@[simp] theorem len_bytes24 (n : Nat) : (bytes24 n).length = 3 := rfl
@[simp] theorem len_bytes32 (n : Nat) : (bytes32 n).length = 4 := rfl
theorem len_status (q : PortIx) (s : State) : (statusBody q s).length = 8 := rfl
theorem len_state (s : State) (p : PartyIx) : (stateBody s p).length = 5 := rfl
theorem len_party (s : State) (p : PartyIx) : (partyBody s p).length = 18 := rfl
theorem len_flat {n k : Nat} (f : Fin n → List Byte) (h : ∀ i, (f i).length = k) : ((List.finRange n).flatMap f).length = n * k := by
  rw [List.length_flatMap]; simp [h]
theorem len_table (s : State) : (tableBody s).length = 72 := by unfold tableBody; rw [len_flat (k := 3)]; intro i; rfl
theorem len_key (s : State) (k : KeyIx) : (keyEntry s k).length = 10 := rfl
theorem len_keys (s : State) : (keysBody s).length = 40 := by unfold keysBody; rw [len_flat (k := 10)]; intro i; rfl
theorem len_player (s : State) (j : PlayerIx) : (playerEntry s j).length = 13 := rfl
theorem len_players (s : State) : (playersBody s).length = 52 := by unfold playersBody; rw [len_flat (k := 13)]; intro i; rfl
theorem len_delay (s : State) (k : Programme) : (delayEntry s k).length = 32 := rfl
theorem len_delayBody (s : State) (k : Programme) : (delayBody s k).length = 33 := rfl
theorem len_delays (s : State) : (delaysBody s).length = 65 := rfl
theorem len_sup (s : State) (k : SupIx) : (supEntry s k).length = 8 := rfl
theorem len_sups (s : State) : (supsBody s).length = 64 := by unfold supsBody; rw [len_flat (k := 8)]; intro i; rfl
theorem len_meter (s : State) : (meterBody s).length = 9 := rfl
theorem len_meters (s : State) : (metersBody s).length = 80 := by unfold metersBody; rw [List.length_append, len_meter]; simp
theorem len_clip (s : State) : (clipBody s).length = 9 := by unfold clipBody; simp
theorem len_cell (x : Cell) : (cellEntry x).length = 7 := rfl
theorem len_logic (s : State) : (logicBody s).length = 78 := by
  unfold logicBody
  simp only [List.length_append, len_bytes16, len_bytes32]
  rw [len_flat (k := 7) (fun c => cellEntry s.cells[c]) (fun _ => rfl)]; simp
theorem len_stepsFlat (f : Nat → List Byte) (n : Nat) (h : ∀ j, (f j).length = 2) : ((List.range n).flatMap f).length = 2 * n := by
  rw [List.length_flatMap]; simp [h]; omega
theorem len_steps (s : State) (a : Byte) (n : Nat) : (stepsBody s a n).length = 3 + 2 * n := by
  unfold stepsBody; rw [List.length_append, len_stepsFlat _ _ (fun _ => rfl)]; rfl
theorem len_pitches (s : State) (a : Fin 32) (n : Nat) : (pitchesBody s a n).length = 3 + 2 * n := by
  unfold pitchesBody; rw [List.length_append, len_stepsFlat _ _ (fun _ => rfl)]; rfl

end Sys2Proof.Machine
end

