-- ==== Sys2Proof/Laws/Operands.lean ====
section
/-! SUPPORT. The operands of commands: one-byte numbers, selection words, checked fields, stored values, sets as bits, and entries in a
reply body. -/

namespace Sys2Proof.Machine

/-! ## Fields -/

/-- A number below 256 in one byte. -/
theorem byte_toNat {n : Nat} (h : n < 256) : (byte n).toNat = n := by unfold byte; simp; omega

/-- A byte from its own number. -/
theorem byte_self (b : Byte) : byte b.toNat = b := by unfold byte; simp

/-- A field that holds the number of a thing names it. -/
theorem fin_some {n m : Nat} (i : Fin n) (h : m = i.val) : fin? n m = some i := by
  subst h; unfold fin?; rw [dif_pos i.isLt]

/-- A field in range names a thing. -/
theorem fin_isSome {n m} (h : m < n) : (fin? n m).isSome = true := by unfold fin?; rw [dif_pos h]; rfl

/-- The thing a field names has its number. -/
theorem fin_val {n m} {i : Fin n} (h : fin? n m = some i) : i.val = m := by
  unfold fin? at h; split at h
  · cases h; rfl
  · cases h

/-- The two-byte index of a party names it (R198). -/
theorem be_pay (p : PartyIx) : fin? 24 (be16 0 (byte p.val)) = some p := fin_some p (by unfold be16; rw [byte_toNat (by omega)]; simp)

/-- The code of a programme names it. -/
theorem prog_some (k : Programme) : programmeOf (programmeCode k) = some k := by revert k; decide

/-- The first eight settings are selected by the low byte of the selection word (R198). -/
theorem selected_lt (sh sl : Byte) (n : Nat) (h : n < 8) : selected sh sl n = sl.getLsbD n := by
  unfold selected be16
  rw [BitVec.getLsbD, show sh.toNat * 256 = 2 ^ 8 * sh.toNat by omega]
  rw [Nat.testBit_two_pow_mul_add _ sl.isLt]
  simp [h]

/-! ## Checked and stored values -/

/-- A checked field gives the value sent where it is selected, and the value held otherwise. -/
theorem checked_some {α} (sel : Bool) (sent : Option α) (held : α) (h : sel = true → sent.isSome = true) : ∃ v, checked sel sent held = some v ∧ (sel = true → sent = some v) ∧ (sel = false → v = held) := by
  cases sel
  · exact ⟨held, rfl, by simp, by simp⟩
  · obtain ⟨v, hv⟩ := Option.isSome_iff_exists.1 (h rfl)
    exact ⟨v, by simp [checked, hv], fun _ => hv, by simp⟩

/-- A checked number gives the number sent where it is selected, and the one held otherwise. -/
theorem checked_fin {n : Nat} (sel : Bool) (v : Nat) (held : Fin n) (h : sel = true → v < n) : ∃ r, checked sel (fin? n v) held = some r ∧ r.val = if sel then v else held.val := by
  cases sel
  · exact ⟨held, rfl, rfl⟩
  · have := h rfl
    exact ⟨⟨v, this⟩, by simp [checked, fin?, this], rfl⟩

/-- A trigger code of 0 to 8 is defined (R104). -/
theorem trigger_isSome {b : Byte} (h : b.toNat ≤ 8) : (triggerOf b).isSome = true := by
  unfold triggerOf; split
  · rfl
  · rename_i h2; rw [Option.isSome_map]; exact fin_isSome (by omega)

/-- A trigger code names the cell of its number, 8 none (R104). -/
theorem trigger_val {b : Byte} {t : Option CellIx} (h : triggerOf b = some t) (c : CellIx) : t = some c ↔ b.toNat = c.val := by
  unfold triggerOf at h; split at h
  · cases h; simp; omega
  · simp only [Option.map_eq_some_iff] at h
    obtain ⟨a, ha, rfl⟩ := h
    have := fin_val ha
    simp only [Option.some.injEq]
    constructor
    · rintro rfl; exact this.symm
    · intro e; exact Fin.ext (by omega)

/-- The result of a store, by the condition of its adjustment (R184). -/
theorem okOr_eq (b : Bool) (P : Prop) [Decidable P] (h : b = true ↔ P) : okOr b = if P then .adjusted else .ok := by
  unfold okOr; cases b
  · rw [if_neg (by simp), if_neg (fun p => by simpa using h.2 p)]
  · rw [if_pos rfl, if_pos (h.1 rfl)]

/-- A gain setting as stored (R51). -/
theorem store_gain (b : Bool) (e x : Byte) : (store b (gainStored e) x).1 = if b then if e.toNat ≤ 192 then e else 255 else x := by
  cases b <;> rfl

/-- A flag byte is on where it is not 0. -/
theorem flag_ne (e : Byte) : (e.toNat != 0) = decide (e ≠ 0) := by
  cases h : decide (e ≠ 0)
  · have : e = 0 := by simpa using h
    subst this; rfl
  · have : e ≠ 0 := by simpa using h
    simp only [bne_iff_ne, ne_eq]; intro h0; exact this (by apply BitVec.eq_of_toNat_eq; simpa using h0)

/-- A flag setting as stored (R29). -/
theorem store_flag (b : Bool) (e : Byte) (x : Bool) : (store b (flagStored e) x).1 = if b then decide (e ≠ 0) else x := by
  cases b
  · rfl
  · exact flag_ne e

/-! ## Sets and entries of a body -/

/-- Bit i of the field of a set is item i (R198). -/
theorem mask_testBit {n : Nat} (m : Mask n) (p : Fin n) : (maskNat m).testBit p.val = m[p] := by
  have gen : ∀ (k : Nat) (f : Fin k → Bool) (p : Nat), (((List.finRange k).map fun i => if f i then 2 ^ i.val else 0).sum).testBit p = if h : p < k then f ⟨p, h⟩ else false := by
    intro k
    induction k with
    | zero => intro f p; simp
    | succ k ih =>
      intro f p
      rw [List.finRange_succ, List.map_cons, List.sum_cons, List.map_map]
      have e : ((List.finRange k).map ((fun i : Fin (k+1) => if f i then 2 ^ i.val else 0) ∘ Fin.succ)).sum = 2 * ((List.finRange k).map fun i => if f i.succ then 2 ^ i.val else 0).sum := by
        rw [← List.sum_map_mul_left]
        congr 1
        apply List.map_congr_left; intro i _; simp only [Function.comp, Fin.val_succ, pow_succ]; split <;> ring
      rw [e]
      generalize hS : ((List.finRange k).map fun i => if f i.succ then 2 ^ i.val else 0).sum = S
      have ih' := ih (fun i => f i.succ)
      rw [hS] at ih'
      cases p with
      | zero =>
        simp only [Nat.testBit_zero, Fin.val_zero]
        cases h : f 0
        · simp [h]
        · simp [h]
      | succ p =>
        rw [Nat.testBit_succ]
        have : ((if f 0 = true then 2 ^ (0 : Fin (k+1)).val else 0) + 2 * S) / 2 = S := by
          split <;> simp <;> omega
        rw [this, ih']
        by_cases hp : p < k
        · rw [dif_pos hp, dif_pos (by omega)]; rfl
        · rw [dif_neg hp, dif_neg (by omega)]
  have := gen n (fun i => m[i]) p.val
  rw [dif_pos p.isLt] at this
  exact this

/-- The entry of item i in a body of equal entries in order. -/
theorem flat_get {n k : Nat} (f : Fin n → List Byte) (h : ∀ i, (f i).length = k) (i : Fin n) : (((List.finRange n).flatMap f).drop (k * i.val)).take k = f i := by
  induction n with
  | zero => exact i.elim0
  | succ n ih =>
    rw [List.finRange_succ, List.flatMap_cons]
    refine Fin.cases ?_ (fun j => ?_) i
    · simp [← h 0]
    · have e : k * j.succ.val = (f 0).length + k * j.val := by rw [h 0]; simp; ring
      rw [e, List.drop_length_add_append, List.flatMap_map]
      exact ih (fun i => f i.succ) (fun i => h _) j

end Sys2Proof.Machine
end

