-- ==== Sys2Proof/Laws/Tones.lean ====
section
/-! SUPPORT. The tone memory: entries from bytes, and runs of entries stored at consecutive addresses. -/

namespace Sys2Proof.Machine

/-- The entries of a list of byte pairs. -/
theorem pairs_flat {α : Type} (f : Byte → Byte → α) (xs : List (Byte × Byte)) : pairs f (xs.flatMap fun e => [e.1, e.2]) = some (xs.map fun e => f e.1 e.2) := by
  induction xs with
  | nil => rfl
  | cons e l ih =>
    rw [List.flatMap_cons]
    show pairs f (e.1 :: e.2 :: (l.flatMap fun e => [e.1, e.2])) = _
    unfold pairs; rw [ih]; rfl

/-- Some player is busy. -/
theorem busy_iff (s : State) : anyBusy s = true ↔ ∃ j : PlayerIx, s.players[j].state ≠ .idle := by
  unfold anyBusy; rw [List.any_eq_true]
  constructor
  · rintro ⟨j, _, h⟩; exact ⟨j, by simpa using h⟩
  · rintro ⟨j, h⟩; exact ⟨j, List.mem_finRange j, by simpa using h⟩

/-- A step read after one was set. -/
theorem set_at (m : Vector Step 256) (a b : Byte) (x : Step) : stepAt (m.set a.toNat x a.isLt) b = if b = a then x else stepAt m b := by
  unfold stepAt
  by_cases h : b = a
  · subst h; simp
  · rw [if_neg h, Vector.getElem_set, if_neg]
    intro e; exact h (BitVec.eq_of_toNat_eq e.symm)

/-- Numbers below 256 are told apart by their byte. -/
theorem byte_inj {i j : Nat} (hi : i < 256) (hj : j < 256) (h : BitVec.ofNat 8 i = BitVec.ofNat 8 j) : i = j := by
  have := congrArg BitVec.toNat h; simp at this; omega

/-- A run of steps leaves every other address (R138). -/
theorem storeSteps_other (xs : List Step) : ∀ (m : Vector Step 256) (a b : Byte), (∀ n < xs.length, b ≠ a + BitVec.ofNat 8 n) → stepAt (storeSteps m a xs) b = stepAt m b := by
  induction xs with
  | nil => intro m a b _; rfl
  | cons x l ih =>
    intro m a b h
    unfold storeSteps
    rw [ih, set_at, if_neg]
    · have := h 0 (by simp); simpa using this
    · intro n hn
      have := h (n+1) (by simp; omega)
      intro e; apply this; rw [e, BitVec.add_assoc]; congr 1
      apply BitVec.eq_of_toNat_eq; simp; omega

/-- Entry n of a run stands at the nth address from the first (R138). -/
theorem storeSteps_get (xs : List Step) : ∀ (m : Vector Step 256) (a : Byte) (hl : xs.length ≤ 256) (n : Nat) (h : n < xs.length), stepAt (storeSteps m a xs) (a + BitVec.ofNat 8 n) = xs[n] := by
  induction xs with
  | nil => intro m a _ n h; simp at h
  | cons x l ih =>
    intro m a hl n h
    unfold storeSteps
    cases n with
    | zero =>
      rw [storeSteps_other, set_at]
      · simp
      · intro k hk e
        have hk' : k < 255 := by simp at hl; omega
        have : BitVec.ofNat 8 0 = BitVec.ofNat 8 (k+1) := by
          have e' : a + BitVec.ofNat 8 0 = a + (1 + BitVec.ofNat 8 k) := by rw [e, BitVec.add_assoc]
          have e2 : BitVec.ofNat 8 0 = 1 + BitVec.ofNat 8 k := by generalize BitVec.ofNat 8 0 = u at *; generalize BitVec.ofNat 8 k = v at *; bv_omega
          rw [e2]; apply BitVec.eq_of_toNat_eq; simp; omega
        have := byte_inj (by omega) (by omega) this
        omega
    | succ n =>
      have := ih (m.set a.toNat x a.isLt) (a+1) (by simp at hl; omega) n (by simp at h; omega)
      have e : a + BitVec.ofNat 8 (n+1) = a + 1 + BitVec.ofNat 8 n := by
        rw [BitVec.add_assoc]; congr 1; apply BitVec.eq_of_toNat_eq; simp; omega
      rw [e, this]; rfl

/-- A run of increments leaves every other index (R138). -/
theorem storePitches_other (xs : List Nat) : ∀ (m : Vector Nat 32) (a b : Fin 32), (∀ n < xs.length, b ≠ a + Fin.ofNat 32 n) → (storePitches m a xs)[b] = m[b] := by
  induction xs with
  | nil => intro m a b _; rfl
  | cons x l ih =>
    intro m a b h
    unfold storePitches
    rw [ih, set_get, if_neg]
    · have := h 0 (by simp); simpa using this
    · intro n hn
      have := h (n+1) (by simp; omega)
      intro e; apply this; rw [e]; apply Fin.ext; simp [Fin.val_add]; omega

/-- Increment n of a run stands at the nth index from the first (R138). -/
theorem storePitches_get (xs : List Nat) : ∀ (m : Vector Nat 32) (a : Fin 32) (hl : xs.length ≤ 32) (n : Nat) (h : n < xs.length), (storePitches m a xs)[a + Fin.ofNat 32 n] = xs[n] := by
  induction xs with
  | nil => intro m a _ n h; simp at h
  | cons x l ih =>
    intro m a hl n h
    unfold storePitches
    cases n with
    | zero =>
      rw [storePitches_other, set_get]
      · simp
      · intro k hk e
        have hk' : k < 31 := by simp at hl; omega
        have e2 := congrArg Fin.val e
        simp [Fin.val_add] at e2; omega
    | succ n =>
      have := ih (m.set a x) (a+1) (by simp at hl; omega) n (by simp at h; omega)
      have e : a + Fin.ofNat 32 (n+1) = a + 1 + Fin.ofNat 32 n := by
        apply Fin.ext; simp [Fin.val_add]; omega
      have cg : ∀ (v : Vector Nat 32) (i j : Fin 32), i = j → v[i] = v[j] := by rintro v i _ rfl; rfl
      exact (cg _ _ _ e).trans this

end Sys2Proof.Machine
end

