-- ==== Sys2Proof/Laws/Transactions.lean ====
section
/-! SUPPORT. The bytes of a transaction: from bits and back, and a whole frame decoded (R180 to R182). -/

namespace Sys2Proof

/-- A byte from its own bits. -/
theorem byte_bits (x : Byte) : byteOfBits [x.getLsbD 7, x.getLsbD 6, x.getLsbD 5, x.getLsbD 4, x.getLsbD 3, x.getLsbD 2, x.getLsbD 1, x.getLsbD 0] = x := by
  revert x; decide +kernel

/-- The whole bytes of the bits of some bytes and of less than a byte more. -/
theorem wholeBytes_bits (bytes : List Byte) (tail : List Bool) (h : tail.length < 8) : wholeBytes (bytes.flatMap bitsOfByte ++ tail) = bytes := by
  induction bytes with
  | nil =>
    rcases tail with _ | ⟨_, _ | ⟨_, _ | ⟨_, _ | ⟨_, _ | ⟨_, _ | ⟨_, _ | ⟨_, _ | ⟨_, t⟩⟩⟩⟩⟩⟩⟩⟩ <;> first | rfl | (simp at h; omega)
  | cons b l ih =>
    rw [List.flatMap_cons]
    show wholeBytes (_ :: _ :: _ :: _ :: _ :: _ :: _ :: _ :: (l.flatMap bitsOfByte ++ tail)) = _
    unfold wholeBytes
    rw [byte_bits, ih]

/-- A whole frame, with bytes after it, is the command of its number (R181, R182). -/
theorem decodeFrame_whole (q : PortIx) (n t : Byte) (p extra : List Byte) (hp : payloadFits p = true) :
    decodeFrame q (wholeFrame n t p ++ extra) = some (commandOf q n t p) := by
  have hp' : p.length ≤ 124 := by simpa [payloadFits] using hp
  have hl : (BitVec.ofNat 8 p.length).toNat = p.length := by simp; omega
  unfold decodeFrame wholeFrame
  simp only [List.cons_append, hl]
  rw [if_pos ⟨hp', by simp⟩]
  simp

end Sys2Proof
end

