-- ==== Sys2Proof/Tests/Slice0.lean ====
section
/-! SUPPORT. Tests. Expected values are the manual's own: its worked cases, tables and layouts, named with each test. The states are
State.reset with the few items a case gives. -/

namespace Sys2Proof.Machine

set_option Elab.async false

/-! ## Small states -/

/-- The state a command leaves, the state itself where it stops. -/
def after (c : Instr) (s : State) : State :=
  match exec c s with
  | .next t => t
  | _ => s

/-- One party's record changed. -/
def State.party (p : PartyIx) (f : PartyRec → PartyRec) (s : State) : State := { s with parties := s.parties.set p (f s.parties[p]) }

/-- A party put in a state on a programme. -/
def State.at (p : PartyIx) (st : PState) (k : Programme) (s : State) : State := s.party p fun r => { r with state := st, programme := k }

/-- One port's role changed. -/
def State.role (q : PortIx) (r : Role) (s : State) : State := { s with ports := s.ports.set q { s.ports[q] with role := r } }

/-- One delay changed. -/
def State.delay (k : Programme) (f : Delay → Delay) (s : State) : State := { s with delays := s.delays.set k (f s.delays[k]) }

/-- One player changed. -/
def State.player (j : PlayerIx) (f : Player → Player) (s : State) : State := { s with players := s.players.set j (f s.players[j]) }

/-- One key changed. -/
def State.withKey (k : KeyIx) (f : Key → Key) (s : State) : State := { s with keys := s.keys.set k (f s.keys[k]) }

/-- One fold-back context replaced. -/
def State.context (p : PartyIx) (l : List KeyIx) (k : Option KeyIx) (s : State) : State :=
  { s with foldBacks := s.foldBacks.set p { list := l, inService := k } }

/-- A set of numbered things. -/
def setOf (n : Nat) (l : List Nat) : Mask n := Vector.ofFn fun i => l.contains i.val

/-- CP0 is SCREENER, CP1 STUDIO-1 and CP2 STUDIO-2 (chapter 1, examples of the check order). -/
def three : State := ((State.reset.role 0 .screener).role 1 (.studio 0)).role 2 (.studio 1)

/-- The reply on a port: result and body. -/
def State.answer (q : PortIx) (s : State) : Result × List Byte := (s.ports[q].slot.result, s.ports[q].slot.body)

/-- A party's state, programme and change count. -/
def State.standing (p : PartyIx) (s : State) : PState × Nat × Byte :=
  (s.parties[p].state, s.parties[p].programme.val + 1, s.parties[p].changes)

/-! ## Arithmetic (chapters 3 and 4) -/

/-- The table of R51. -/
theorem test_gain_codes : [0, 6, 12, 18, 24, 32, 52, 92, 132, 172, 192, 193, 255].map (fun v : Nat => coef (BitVec.ofNat 8 v)) =
    [32690, 23143, 16384, 11599, 8211, 5181, 1638, 164, 16, 2, 1, 0, 0] := by decide +kernel

/-- The halves of R52. -/
theorem test_round : (rnd (-8192), rnd (-8193), sat 8388608, sat (-8388609)) = (0, -1, 8388607, -8388608) := by decide

/-- The table of R79, both directions. -/
theorem test_ramps : ([0, 7, 15, 23, 31] : List FrameIx).map (fun i => (rampAt { old := 16384, new := 11599 } i, rampAt { old := 11599, new := 16384 } i)) =
    [(16235, 11748), (15188, 12795), (13992, 13991), (12796, 15187), (11599, 16384)] := by decide

/-- Frame 15 of a ramp between 0 and 11599 (R79). -/
theorem test_ramp_directions : (rampAt { old := 0, new := 11599 } 15, rampAt { old := 11599, new := 0 } 15) = (5799, 5800) := by decide

/-- The level codes of R152 and 8.6. -/
theorem test_level_codes : [0, 255, 256, 511, 32768, 65535, 524288, 2097152, 4194303, 4194304, 8388607, 800, 2099, 683, 175].map levelCode =
    [0, 0, 1, 1, 8, 8, 12, 14, 14, 15, 15, 2, 4, 2, 0] := by decide +kernel

/-! ## The party table (chapter 1) -/

/-- Check order: STUDIO-1 names programme 2. -/
theorem test_take_other_programme :
    ((after (.take 1 7 (statePayload 4 .ready 2)) (three.at 4 .ready 1)).answer 1).1 = .notAllowed := by decide +kernel

/-- Check order: L4 in READY on programme 2 is taken to AIR on programme 1. -/
theorem test_take_readied : (after (.take 1 7 (statePayload 4 .ready 1)) (three.at 4 .ready 1)).standing 4 = (.air, 1, 1) := by decide +kernel

/-- Check order: the expectation is checked before the studio restriction. -/
theorem test_drop_stale : (after (.drop 2 7 (statePayload 4 .hold 0)) (three.at 4 .air 0)).answer 2 = (.stale, stateReply 4 .air 0 0) := by
  decide +kernel

/-- Check order: on air on the other programme. -/
theorem test_drop_restricted : ((after (.drop 2 7 (statePayload 4 .air 0)) (three.at 4 .air 0)).answer 2).1 = .notAllowed := by decide +kernel

/-- Check order: SCREEN from AIR. -/
theorem test_screen_from_air : ((after (.screen 0 7 (statePayload 4 .air 0)) (three.at 4 .air 0)).answer 0).1 = .illegal := by decide +kernel

/-- Check order: HOLD on a codec in STANDBY. -/
theorem test_hold_standby : ((after (.hold 1 7 (statePayload 17 .standby 0)) (three.at 17 .standby 0)).answer 1).1 = .illegal := by decide +kernel

/-- Check order: programme 3. -/
theorem test_ready_three : ((after (.ready 0 7 (statePayload 4 .ready 3)) (three.at 4 .ready 1)).answer 0).1 = .illegal := by decide +kernel

/-- Check order: index 24 is answered without a payload. -/
theorem test_answer_index : (after (.answer 0 7 [0, 24, 1, 0]) three).answer 0 = (.illegal, []) := by decide +kernel

/-- 1.12: HOLD from AIR records the write count of AD2, in AT_TARGET. -/
theorem test_hold_mark :
    (after (.hold 2 7 (statePayload 3 .air 0))
      ((three.at 3 .air 1).delay 1 fun d => { d with state := .atTarget, w := 7340000, rd := 7244000 })).parties[3].echoMark = some 7340000 := by
  decide +kernel

/-- 1.12: READY 2 from HOLD on programme 2 keeps the mark. -/
theorem test_ready_keeps_mark :
    (after (.ready 0 7 (statePayload 3 .hold 2)) ((three.at 3 .hold 1).party 3 fun r => { r with echoMark := some 7340000 })).parties[3].echoMark =
      some 7340000 := by decide +kernel

/-- PRIVATE from PRIVATE is ILLEGAL, even when k differs (R23). -/
theorem test_private_from_private :
    ((after (.privateTalk 0 7 (statePayload 3 .priv 2)) ((three.role 0 .engineering).at 3 .priv 0)).answer 0).1 = .illegal := by decide +kernel

/-- A gain code of 200 over a stored 255 stores 255 and raises no event (R30). -/
theorem test_set_party_same :
    (after (.setParty 0 7 [0, 3, 0, 1, 200, 0, 0, 0, 0, 0]) (State.reset.party 3 fun r => { r with sourceGain := 255 })).ports[1].flags = 0 := by
  decide +kernel

/-- A group of 9 is stored as 8, adjusted (R29). -/
theorem test_set_party_group : ((after (.setParty 0 7 [0, 3, 0, 4, 0, 0, 9, 0, 0, 0]) State.reset).answer 0).1 = .adjusted := by decide +kernel

/-- The record of C2 after RESET as READ PARTY lays it out (R2, R199). -/
theorem test_read_party : (after (.readParty 0 7 [0, 18]) State.reset).answer 0 =
    (.ok, [0, 18, 1, 8, 1, 0, 12, 12, 0, 1, 0, 0, 0, 0, 0, 0, 255, 0]) := by decide +kernel

/-- READ TABLE with L above 0 (R33). -/
theorem test_read_table_operand : (after (.readTable 0 7 [0]) State.reset).answer 0 = (.illegal, []) := by decide +kernel

/-! ## Lines and links (chapter 2) -/

/-- One line's context replaced. -/
def State.line (n : LineIx) (c : LineCtx) (s : State) : State := { s with lines := s.lines.set n c }

/-- A line with its loop seen, a LOOP history and a drop count. -/
def looped (h : List Bool) (n : Nat) : LineCtx := { LineCtx.atReset with loop := h, loopSeen := true, dropCount := n }

/-- 2.12, e5: an absence of three evaluations ends, and FLASH is raised. -/
theorem test_flash :
    (after (.partyEvaluation 7) ((State.reset.at 7 .air 0).line 7 (looped [true, true, false] 3))).ports[0].flags = 8 := by decide +kernel

/-- 2.12, e550: the drop count reaches 450 and loop drop is handed. -/
theorem test_loop_drop_handed :
    (after (.partyEvaluation 7) ((State.reset.at 7 .hold 0).line 7 (looped [false, false, false] 449))).handed = [.loopDrop 7] := by decide +kernel

/-- 2.12: the arrival of loop drop takes the line to CLEARING with PARTY and HANGUP. -/
theorem test_loop_drop :
    (after (.loopDrop 7) ((State.reset.at 7 .hold 0).line 7 (looped [false, false, false] 450))).ports[2].flags = 5 := by decide +kernel

/-- R27: ring abandon after ANSWER is discarded. -/
theorem test_abandon_discarded : (after (.ringAbandon 5) (State.reset.at 5 .screen 0)).standing 5 = (.screen, 1, 0) := by decide +kernel

/-- 2.12: C2 comes up, with count 1, PARTY and LINK. -/
theorem test_link_up : ((after (.linkUp 18) State.reset).standing 18, (after (.linkUp 18) State.reset).ports[0].flags) =
    ((.standby, 1, 1), 17) := by decide +kernel

/-- A ring cause on an IDLE phone: PARTY and RING (1.12). -/
theorem test_ring : ((after (.ring 3) State.reset).standing 3, (after (.ring 3) State.reset).ports[0].flags) = ((.ringing, 1, 1), 3) := by
  decide +kernel

/-- A drop-time code of 3 is stored as 2, adjusted (R41). -/
theorem test_line_timing : (after (.setLineTiming 0 7 [3]) State.reset).answer 0 = (.adjusted, [2]) := by decide +kernel

/-! ## Buses and returns (chapters 3 and 4) -/

/-- A slot with a sample and clear auxiliary bits. -/
def slot (v : Int) : TdmSlot := BitVec.ofInt 24 v ++ (0 : BitVec 8)

/-- A frame of silence. -/
def silence : FrameIn := { tel := Vector.replicate 16 0, cdc := Vector.replicate 8 0, stu := Vector.replicate 16 0 }

/-- The frame of 3.7: S0, S5, L3, C1, and S7 as the talkback input; and the sources of studio 2, S1, L9 and C4. -/
def frame : FrameIn :=
  { tel := ((silence.tel.set 3 (slot (-1500000))).set 9 (slot (-5000000)))
    cdc := ((silence.cdc.set 1 (slot 800000)).set 4 (slot 5000000))
    stu := ((((silence.stu.set 0 (slot 2000000)).set 1 (slot 6000000)).set 5 (slot 3000000)).set 7 (slot 1000000)) }

/-- A coefficient that has landed. -/
def still (c : Nat) : Ramp := { old := c, new := c }

/-- ME's context of a party on a feed, with a source term on one bus and a return gain coefficient. -/
def onBus (f : Feed) (b : BusIx) (c ret : Nat) : PartyMix :=
  { PartyMix.atReset with
    source := PartyMix.atReset.source.set b (still c), heard := true, feedOld := f, feedNew := f, ret := still ret }

/-- A send coefficient that has landed. -/
def State.send (n : StudioIx) (b : BusIx) (c : Nat) (s : State) : State :=
  { s with mix := { s.mix with sendCoef := s.mix.sendCoef.set n (s.mix.sendCoef[n].set b (still c)) } }

/-- ME's context of one party replaced. -/
def State.mixOf (p : PartyIx) (h : PartyMix) (s : State) : State := { s with partyMix := s.partyMix.set p h }

/-- The P1 mix-minus of a set of parties, S5 excluded. -/
def minus (l : List Nat) : Feed := .bus 0 (setOf 24 l) (setOf 16 [5])

/-- K0 in use with its default codes, from the source S7. -/
def talked (h : PartyMix) : PartyMix :=
  { h with duck := still 8211, keyUse := some { key := 0, source := 7, talk := still 16384 } }

/-- The worked case of 3.7. -/
def worked : State :=
  ((((((((State.reset.send 0 0 16384).send 5 0 5181).send 1 1 16384).mixOf 3 (talked (onBus (minus [3]) 0 11599 16384))).mixOf 17
    (onBus (minus [17]) 0 16384 11599)).mixOf 8 (onBus (minus [8]) 0 0 16384)).mixOf 9
    (onBus (.bus 1 (setOf 24 [9]) (setOf 16 [])) 1 23143 16384)).mixOf 20
    (onBus (.bus 1 (setOf 24 [20]) (setOf 16 [])) 1 23143 16384))

/-- 3.7: the P1 and P2 outputs. -/
theorem test_bus_outputs : (busOut worked frame 0, busOut worked frame 1) = (2686749, 6000000) := by decide +kernel

/-- 3.7: the returns of L3, C1 and L8. -/
theorem test_returns : (returnOut worked frame 3, returnOut worked frame 17, returnOut worked frame 8) = (2403247, 664111, 1738080) := by
  decide +kernel

/-- 3.7: L3 and C1 in one group hear the presenter alone. -/
theorem test_group : (mixValue worked frame (minus [3, 17])) = 2000000 := by decide +kernel

/-- 3.7: a return that clips on a quiet bus: point 33 gets a report and point 65 none. -/
theorem test_clip : (clipReport worked frame 33, clipReport worked frame 65, returnOut worked frame 9, returnOut worked frame 20) =
    (true, false, 8388607, -1062683) := by decide +kernel

/-- 4.8, frame 0 of n+1: L3's term ramps from 0 to 11599; L3 and L8 in returns. -/
def taken : State :=
  (((State.reset.send 0 0 16384).send 5 0 5181).mixOf 3
    { onBus (minus [3]) 0 0 16384 with source := PartyMix.atReset.source.set 0 { old := 0, new := 11599 } }).mixOf 8 (onBus (minus [8]) 0 0 16384)

/-- The inputs of 4.8. -/
def takeFrame : FrameIn :=
  { silence with tel := silence.tel.set 3 (slot (-1500000)), stu := (silence.stu.set 0 (slot 2000000)).set 5 (slot 3000000) }

/-- 4.8: the values of frame 0. -/
theorem test_take_frame : (busOut taken takeFrame 0, returnOut taken takeFrame 3, returnOut taken takeFrame 8) = (2915527, 2000000, 1966858) := by
  decide +kernel

/-- 4.9, period n+1: L3's feed goes to silence and K0 leaves. -/
def dropped : State :=
  (((State.reset.send 0 0 16384).send 5 0 5181).mixOf 3
    { onBus (minus [3]) 0 0 16384 with
      source := PartyMix.atReset.source.set 0 { old := 11599, new := 0 }, feedNew := .silence, duck := { old := 8211, new := 16384 }
      leaving := some { source := 7, talk := { old := 16384, new := 0 } } })

/-- 4.9: the values of frame 0. -/
theorem test_drop_frame :
    (busOut dropped { takeFrame with stu := takeFrame.stu.set 7 (slot 1000000) } 0,
      returnOut dropped { takeFrame with stu := takeFrame.stu.set 7 (slot 1000000) } 3) = (1919891, 1969902) := by decide +kernel

/-- 4.10: a key change on a feed transition is held. -/
theorem test_change_held :
    (partyMixAfter ((((State.reset.at 6 .ready 0).context 6 [2, 0] (some 0))).mixOf 6
      { onBus (.bus 2 (setOf 24 [6]) (setOf 16 [])) 2 16384 16384 with
        duck := still 8211, keyUse := some { key := 2, source := 4, talk := still 16384 } }) 6).keyUse =
      some { key := 2, source := 4, talk := still 16384 } := by decide +kernel

/-- HOLD under PRE and AIR on one programme have one feed identity (R82). -/
theorem test_identity : feedOf (State.reset.at 3 .hold 1) 3 = feedOf (State.reset.at 3 .air 1) 3 := by decide +kernel

/-- After RESET a frame sends silence and the first period has no ramp (R76, R78). -/
theorem test_first_period : (mePeriod State.reset).partyMix = State.reset.partyMix := by decide +kernel

/-- An exclusion value of 2 is stored as set, adjusted (R55). -/
theorem test_set_send : (after (.setSend 0 7 [5, 0, 0, 3, 32, 2]) State.reset).answer 0 = (.adjusted, [5, 0, 32, 1]) := by decide +kernel

/-- 10.6, transaction 5: SET SEND from STUDIO-1. -/
theorem test_set_send_role : ((after (.setSend 1 9 [5, 0, 0, 3, 32, 1]) three).answer 1).1 = .notAllowed := by decide +kernel

/-- Monitor code 31 (R74). -/
theorem test_set_monitor : (after (.setMonitor 0 7 [31]) State.reset).answer 0 = (.illegal, []) := by decide +kernel

/-! ## Talkback (chapter 5) -/

/-- 5.7: the priorities of the keys. -/
def keyed : State := State.reset.withKey 3 fun k => { k with priority := 1 }

/-- 5.7, step 4: K0 pre-empts K1 at L2, which keeps its place. -/
theorem test_request : (after (.request 0 2) ((keyed.at 2 .air 0).context 2 [1, 3, 2] (some 1))).foldBacks[2] =
    { list := [1, 3, 2, 0], inService := some 0 } := by decide +kernel

/-- 5.7, step 6: K0 leaves and K1, first of its priority, resumes. -/
theorem test_release : (after (.release 0 2) ((keyed.at 2 .air 0).context 2 [1, 3, 2, 0] (some 0))).foldBacks[2] =
    { list := [1, 3, 2], inService := some 1 } := by decide +kernel

/-- 5.7, step 7: K3 raised to priority 0 takes the service from K1. -/
theorem test_reconsider :
    (after (.reconsideration 3 2) ((State.reset.withKey 3 fun k => { k with priority := 0 }).at 2 .air 0 |>.context 2 [1, 3, 2] (some 1))).foldBacks[2] =
    { list := [1, 3, 2], inService := some 3 } := by decide +kernel

/-- 5.7, step 8: fold-back turned on at L5 runs selection. -/
theorem test_enable_on :
    (after (.setParty 0 7 [0, 5, 0, 8, 0, 0, 0, 1, 0, 0])
      (((State.reset.at 5 .hold 0).party 5 fun r => { r with foldBack := false }).context 5 [1] none)).foldBacks[5].inService = some 1 := by
  decide +kernel

/-- 5.7, step 13: the answered call takes K3, still active, into its list. -/
theorem test_answer_keys :
    (after (.answer 0 7 (statePayload 2 .ringing 0))
      ((State.reset.at 2 .ringing 0).withKey 3 fun k => { k with dest := setOf 24 [2], latches := setOf 3 [2], active := true })).foldBacks[2] =
      { list := [3], inService := some 3 } := by decide +kernel

/-- R94: OFF-ALL from a studio. -/
theorem test_key_off_all : ((after (.key 1 7 [0, 2]) three).answer 1).1 = .notAllowed := by decide +kernel

/-- 5.7, step 4: CP1 sets K0 on, which pre-empts K1 at L2 at the same arrival. -/
theorem test_key_on :
    let t := after (.key 1 7 [0, 1]) (((three.withKey 0 fun k => { k with dest := setOf 24 [2, 5] }).at 2 .air 0).context 2 [1, 3, 2] (some 1))
    (t.foldBacks[2], t.answer 1) = ({ list := [1, 3, 2, 0], inService := some 0 }, (.ok, [0, 18])) := by decide +kernel

/-- 5.7, after step 8. -/
def nested : State :=
  ((((((State.reset.withKey 1 fun k => { k with source := 2, dest := setOf 24 [2, 5, 16], latches := setOf 3 [1], active := true }).withKey 3
    fun k => { k with priority := 0 }).at 2 .air 0).context 2 [1, 3, 2] (some 3)).at 5 .hold 0).context 5 [1] (some 1)).at 16 .standby 0
    |>.context 16 [1] (some 1)

/-- 5.7, step 9: C0 leaves the reach of K1, which then serves at L5 alone, as the reply shows. -/
theorem test_set_key :
    let t := after (.setKey 0 7 [1, 0, 16, 0, 0, 0, 0, 0, 0, 36, 0]) nested
    (t.foldBacks[16], t.foldBacks[5], t.answer 0) =
      ({ list := [], inService := none }, { list := [1], inService := some 1 }, (.ok, [2, 1, 24, 12, 0, 0, 36, 8, 18, 1])) := by decide +kernel

/-- 5.7, step 7: K3 raised to priority 0 takes the service at L2 at the same arrival. -/
theorem test_set_key_priority :
    let t := after (.setKey 0 7 [3, 0, 2, 0, 0, 0, 0, 0, 0, 0, 0])
      (((State.reset.withKey 3 fun k => { k with dest := setOf 24 [2], latches := setOf 3 [2], active := true }).at 2 .air 0).context 2 [1, 3, 2] (some 1))
    (t.foldBacks[2].inService, (t.answer 0).2.drop 9) = (some 3, [1]) := by decide +kernel

/-- A key's entry after RESET (R92, R200). -/
theorem test_read_keys : ((after (.readKeys 0 7 []) State.reset).answer 0).2.take 10 = [0, 0, 24, 12, 0, 0, 0, 8, 0, 0] := by decide +kernel

/-- R95: a rise of the trigger cell makes an inactive key active. -/
theorem test_key_trigger : (after (.keyTrigger 1 4 true) (State.reset.withKey 1 fun k => { k with trigger := some 4 })).keys[1].active = true := by
  decide +kernel

/-! ## Air delays (chapter 6) -/

/-- AD1 of 6.11 in a state with its counts. -/
def cued (st : DelayState) (w rd : Nat) (f : Delay → Delay) : State :=
  { State.reset.delay 0 fun d => f { d with
      state := st, w := BitVec.ofNat 32 w, rd := BitVec.ofNat 32 rd, target := 96000, segment := 750, holdFeed := .air } with
    memSize := .a20, memInUse := .a20 }

/-- 6.11, start of p+2: two merged requests cut 48000 frames. -/
theorem test_dump_jump :
    let d := (after (.dumpJump 0) (cued .dumpOut 5000064 4904064 fun d => { d with dumps := 2 })).delays[0]
    (d.rd, d.length, d.lastJump, d.dumps, d.state) = (4952064, 48000, 48000, 0, .dumpIn) := by decide +kernel

/-- 6.11, start of p+4: the second jump passes L3's mark, which is removed. -/
theorem test_guard_cut :
    (after (.delayPeriodStart 0)
      (((cued .dumpOut 5000128 4952128 fun d => { d with dumps := 1 }).at 3 .hold 0).party 3 fun r => { r with echoMark := some 4970000 })).parties[3].echoMark =
      none := by decide +kernel

/-- 6.11, start of p+3: a pending dump begins with n = 1. -/
theorem test_dump_pending :
    let d := (after (.delayPeriodStart 0) (cued .dumpIn 5000096 4952096 fun d => { d with dumpPending := true })).delays[0]
    (d.state, d.dumps, d.dumpPending) = (.dumpOut, 1, false) := by decide +kernel

/-- 6.11: the reply of the first DUMP, from STUDIO-1. -/
theorem test_dump :
    let t := after (.dump 1 7 [1]) ((cued .atTarget 5000000 4904000 id).role 1 (.studio 0))
    (t.delays[0].dumps, (t.answer 1).1, (t.answer 1).2.length) = (1, .ok, 33) := by decide +kernel

/-- R126: a rise of the trigger cell in DUMP_OUT merges a second request. -/
theorem test_delay_trigger :
    (after (.delayTrigger 0 2 true) (cued .dumpOut 5000050 4904050 fun d => { d with dumps := 1, trigger := some 2 })).delays[0].dumps = 2 := by
  decide +kernel

/-- 6.11, rebuild: frame 3 of a quiet period inserts, frame 4 does not (R120). -/
theorem test_insert :
    (inserts { Delay.atReset with state := .building, quiet := true, targetInUse := 96000, ratioInUse := 1 } 3,
      inserts { Delay.atReset with state := .building, quiet := true, targetInUse := 96000, ratioInUse := 1 } 4) = (true, false) := by decide

/-- A skip at D = 1 gives the frame's own input (R121). -/
theorem test_skip :
    (after (.delayWriteRead 0)
      { (State.reset.delay 0 fun d => { d with state := .shrinking, quiet := true, w := 1, ratioInUse := 0 }) with
        formed := { Formed.atReset with index := 1, buses := Formed.atReset.buses.set 0 77 } }).delays[0].last = 77 := by decide +kernel

/-- Q_enter raised to 9 over a Q_leave of 4 moves Q_leave to 10 (R131). -/
theorem test_set_delay :
    let t := after (.setDelay 0 7 [1, 0, 8, 0, 0, 0, 0, 0, 9, 0, 0, 0]) State.reset
    (t.delays[0].qEnter, t.delays[0].qLeave, (t.answer 0).1) = (9, 10, .adjusted) := by decide +kernel

/-- SET MEMORY SIZE with a delay running (R113). -/
theorem test_memory_size : (after (.setMemorySize 0 7 [0]) (cued .building 40 0 id)).answer 0 = (.busy, [1]) := by decide +kernel

/-- A frame makes AD2's write and read at the words of the second half; a size stored within it does not move them (R112, R113, R197). -/
theorem test_memory_port :
    let t := after (.delayWriteRead 1) { ((State.reset.delay 1 fun d => { d with state := .building, w := 131073, rd := 131072 })) with memSize := .a22 }
    t.memPort[1] = [.write 131073 0, .read 131072] := by decide +kernel

/-- At RESET and after its release every strobe is high and the address lines are low, until the first access (R197). -/
theorem test_memory_lines_at_reset :
    idleLines State.reset = { mcs := true, mwe := true, moe := true, ma := 0, md := none } ∧
      noAccessYet (after (.delayWriteRead 0) State.reset) = false := by decide +kernel

/-- The length of a READ DELAY reply (R198). -/
theorem test_read_delay : ((after (.readDelay 0 7 []) State.reset).answer 0).2.length = 65 := by decide +kernel

/-! ## Tone players (chapter 7) -/

/-- 7.8: the tone samples at level 1 of the frames with these phases. -/
theorem test_tone : [0, 1365, 2730, 32760, 34125].map (fun n : Nat => toneSample { Player.atReset with
    phase := BitVec.ofNat 16 n, current := { pitch := 1, length := 3, level := 1, last := false } }) =
    [-4194176, -3844736, -3495296, 4192384, 3846784] := by decide +kernel

/-- TP1 of 7.8. -/
def pip (f : Player → Player) : State :=
  { State.reset.player 1 fun x => f { x with start := 10, tick := 50 } with
    steps := (((State.reset.steps.set 10 { pitch := 1, length := 3, level := 1, last := false }).set 11
      { pitch := 0, length := 2, level := 0, last := false }).set 12 { pitch := 1, length := 3, level := 1, last := true }) }

/-- 7.8: START latches the settings and waits for the first step. -/
theorem test_start :
    let x := (after (.start 1 7 [1]) (pip id)).players[1]
    (x.state, x.stepPending, x.latchedStart, x.latchedTick, x.remaining) = (.playing, true, 10, 50, 0) := by decide +kernel

/-- 7.8, start of q+1: the step at 10 begins with 150 periods. -/
theorem test_first_step :
    let x := (after (.playerPeriodStart 1) (pip fun x => { x with state := .playing, stepPending := true, latchedStart := 10, latchedTick := 50 })).players[1]
    (x.stepPending, x.stepAddr, x.remaining) = (false, 10, 150) := by decide +kernel

/-- 7.8, start of q+401: the END step completes and TONE is raised. -/
theorem test_step_complete :
    let t := after (.stepComplete 1) (pip fun x => { x with
      state := .playing, stepAddr := 12, remaining := 1, latchedTick := 50, current := { pitch := 1, length := 3, level := 1, last := true } })
    (t.players[1].state, t.players[1].stepAddr, t.ports[0].flags) = (.idle, 12, 64) := by decide +kernel

/-- 7.8: an abort fades through q+61 with 90 periods left. -/
theorem test_abort_fade :
    let x := (after (.playerPeriodStart 1) (pip fun x => { x with state := .playing, abort := .requested, remaining := 91 })).players[1]
    (x.abort, x.remaining) = (.fading, 90) := by decide +kernel

/-- 7.8, start of q+62: the fade has ended. -/
theorem test_abort_end :
    (after (.abortFadeEnd 1) (pip fun x => { x with state := .playing, abort := .fading, remaining := 90 })).players[1].state = .idle := by decide +kernel

/-- START on an aborting player (R143), STOP on an IDLE one (R144), ABORT on one that plays (R145). -/
theorem test_start_busy : ((after (.start 0 7 [1]) (pip fun x => { x with state := .playing, abort := .fading })).answer 0).1 = .busy := by
  decide +kernel
theorem test_stop_idle : ((after (.stop 0 7 [1]) (pip id)).answer 0).1 = .already := by decide +kernel
theorem test_abort : (after (.abort 0 7 [1]) (pip fun x => { x with state := .playing })).players[1].abort = .requested := by decide +kernel

/-- R146: a fall in CONTINUOUS mode is a STOP. -/
theorem test_player_trigger :
    (after (.playerTrigger 1 0 false) (pip fun x => { x with
      state := .playing, trigger := some 0, triggerOut := true, mode := .continuous })).players[1].state = .stopping := by decide +kernel

/-- R138: a length of 0 is stored as 1, adjusted; steps run on from 255 to 0. -/
theorem test_write_steps : (after (.writeSteps 0 7 [255, 1, 5, 129, 0]) State.reset).answer 0 = (.adjusted, [0, 255, 2, 1, 5, 129, 1]) := by
  decide +kernel

/-- R138: an increment above 16384. -/
theorem test_write_pitches : (after (.writePitches 0 7 [31, 255, 255]) State.reset).answer 0 = (.adjusted, [1, 31, 1, 64, 0]) := by decide +kernel

/-- R138: a write while a player is busy. -/
theorem test_write_busy : ((after (.writeSteps 0 7 [10, 1, 5]) (pip fun x => { x with state := .stopping })).answer 0).1 = .busy := by decide +kernel

/-- R139: a count of 61 steps. -/
theorem test_read_tone_memory : (after (.readToneMemory 1 7 [0, 0, 61]) three).answer 1 = (.illegal, []) := by decide +kernel

/-- R141: a tick length of 0. -/
theorem test_set_player : ((after (.setPlayer 0 7 [1, 0, 2, 0, 0, 0, 0]) (pip id)).players[1].tick) = 1 := by decide +kernel

/-- R148: the bits that name no player. -/
theorem test_tone_route : (after (.setToneRoute 0 7 [3, 0, 3, 0x12, 52]) State.reset).answer 0 = (.adjusted, [3, 2, 52]) := by decide +kernel

/-- A player's entry after RESET (R140, R149). -/
theorem test_read_players : ((after (.readPlayers 0 7 []) State.reset).answer 0).2.take 13 = [0, 1, 0, 8, 0, 0, 0, 0, 0, 1, 0, 0, 0] := by
  decide +kernel

/-! ## Metering (chapter 8) -/

/-- 8.6: the codes of means over 64 and 1024 frames. -/
theorem test_means : ([51200, 536870848, 16383, 16384].map (fun a => levelCode (a / 2 ^ 6)), [2150000, 700000, 180000].map (fun a => levelCode (a / 2 ^ 10))) =
    ([2, 15, 0, 1], [4, 2, 0]) := by decide +kernel

/-- The metering context of 8.7. -/
def State.metering (m : Meter) (s : State) : State := { s with meter := m }

/-- 8.7, event t + 40: the completion takes the wait from the w stored. -/
theorem test_measurement_complete :
    let t := after .measurementComplete (State.reset.metering
      { mode := .periodic, window := 10, repeats := 4, phase := .measuring, windowInUse := 8, periodsLeft := 1, measurements := 1 })
    (t.meter.phase, t.meter.windowInUse, t.meter.periodsLeft, t.meter.measurements) = (.waiting, 8, 96, 2) := by decide +kernel

/-- 8.7, event t + 136: the wait ends and the next measurement takes w = 10. -/
theorem test_waiting_end :
    let t := after .waitingEnd (State.reset.metering
      { mode := .periodic, window := 10, repeats := 4, phase := .waiting, windowInUse := 8, periodsLeft := 1, measurements := 2 })
    (t.meter.phase, t.meter.windowInUse, t.meter.periodsLeft) = (.measuring, 10, 32) := by decide +kernel

/-- 8.7, event t: the first measurement begins with w = 8. -/
theorem test_meter_period : (after .meterPeriodStart (State.reset.metering { Meter.atReset with mode := .periodic, window := 8 })).meter.periodsLeft = 8 := by
  decide +kernel

/-- 8.8: supervisor 0 through the nine measurements. -/
theorem test_silence_alarm :
    (List.scanl supAfter { Sup.atReset with enable := true, point := 69, count := 3 } [9, 2, 1, 3, 0, 1, 2, 3, 4]).map (fun x => (x.alarm, x.run)) =
      [(false, 0), (false, 0), (false, 1), (false, 2), (false, 0), (false, 1), (false, 2), (true, 3), (true, 3), (false, 0)] := by decide +kernel

/-- R162: a threshold of 0 kept when the mode becomes OVERLOAD is stored as 1, and leaves room for an H of 1 alone. -/
theorem test_set_supervisor :
    (after (.setSupervisor 0 7 [0, 0, 4, 0, 0, 1, 0, 0, 0])
      { State.reset with sups := State.reset.sups.set 0 { Sup.atReset with threshold := 0 } }).answer 0 =
      (.adjusted, [0, 64, 1, 1, 15, 1, 0, 0]) := by decide +kernel

/-- 8.8: a new threshold restarts a supervisor in ALARM and raises SUPERVISE. -/
theorem test_supervisor_restart :
    let t := after (.setSupervisor 0 7 [0, 0, 8, 0, 0, 0, 1, 0, 0])
      { State.reset with sups := State.reset.sups.set 0 { Sup.atReset with enable := true, alarm := true, run := 15 } }
    (t.sups[0].alarm, t.sups[0].run, t.ports[2].flags) = (false, 0, 128) := by decide +kernel

/-- R156: a window exponent of 13. -/
theorem test_set_metering : ((after (.setMetering 0 7 [0, 2, 0, 13, 0]) State.reset).answer 0) = (.adjusted, [0, 12, 2, 0, 0, 10, 0, 0, 0]) := by
  decide +kernel

/-- R159: a run past point 70. -/
theorem test_clear_clips : (after (.clearClips 1 7 [70, 2]) three).answer 1 = (.illegal, []) := by decide +kernel

/-- The lengths of the meter replies (R198). -/
theorem test_read_meters : ((after (.readMeters 0 7 []) State.reset).answer 0).2.length = 80 := by decide +kernel
theorem test_read_supervisors : ((after (.readSupervisors 0 7 []) State.reset).answer 0).2.take 8 = [0, 64, 0, 2, 15, 2, 0, 0] := by decide +kernel

/-! ## Logic cells (chapter 9) -/

/-- LC2 of 9.8 with its held, filtered and previous values. -/
def button (held filt prev : Bool) : State :=
  { State.reset.delay 0 fun d => { d with trigger := some 2 } with
    gpis := State.reset.gpis.set 2 [true, true, false]
    cells := State.reset.cells.set 2 { Cell.atReset with
      enable := true, in0 := 5, table := 2, filter := .stable, edge := true, held := held, filtered := filt, previous := prev } }

/-- All pins low but GPI2. -/
def pressed : Vector Bool 8 := (Vector.replicate 8 false).set 2 true

/-- 9.8, e3: the output rises and AD1 gets the delivery. -/
theorem test_button : (after (.lcPeriodEnd pressed) (button true false false)).handed = [.delayTrigger 0 2 true] := by decide +kernel

/-- 9.8, e2: the result rises, GPI is raised, and STABLE keeps the filtered result. -/
theorem test_button_stable :
    let t := after (.lcPeriodEnd pressed) { button false false false with gpis := State.reset.gpis.set 2 [true, false, false] }
    (t.cells[2].held, t.cells[2].filtered, t.cells[2].output, t.ports[0].flags) = (true, false, false, 1024) := by decide +kernel

/-- LC4 of 9.9 with its output at 1. -/
def lamp (gpi3 : List Bool) : State :=
  { State.reset with
    gpis := State.reset.gpis.set 3 gpi3
    cells := State.reset.cells.set 4 { Cell.atReset with
      enable := true, in0 := 12, in1 := 6, in2 := 1, table := 0xBA, held := true, filtered := true, previous := true, output := true } }

/-- 9.9, f10: index 4 holds the lamp; f40: index 6 puts it out. -/
theorem test_latch :
    ((after (.lcPeriodEnd (Vector.replicate 8 false)) (lamp [])).cells[4].output,
      (after (.lcPeriodEnd ((Vector.replicate 8 false).set 3 true)) (lamp [true, true, true])).cells[4].output) = (true, false) := by decide +kernel

/-- R173, R176: a changed configuration sets the restart, and the output stands. -/
theorem test_set_cell :
    let t := after (.setCell 0 7 [4, 0, 1, 1, 0, 0, 0, 0, 0, 0, 0]) State.reset
    (t.cells[4].restart, t.cells[4].output, (t.answer 0).2) = (true, false, [0, 0, 0, 0, 0, 1, 1]) := by decide +kernel

/-- R175, R177: constant 1 under ACTIVE-LOW is driven low. -/
theorem test_set_gpo : (after (.setGpo 0 7 [3, 0, 3, 9, 1]) State.reset).answer 0 = (.ok, [0x39]) := by decide +kernel

/-- R175: a delivery to a pin that selects the cell. -/
theorem test_gpo_delivery :
    (after (.gpoDelivery 3 4 true) { State.reset with gpos := State.reset.gpos.set 3 { Gpo.atReset with selection := .cell 4 } }).gpos[3].active = true := by
  decide +kernel

/-- After RESET every signal but FREE_RUN is 0 (R167, R200). -/
theorem test_read_logic : ((after (.readLogic 0 7 []) State.reset).answer 0).2.drop 72 = [0x20, 0, 0, 0, 0, 0] := by decide +kernel

/-! ## Control ports and clock (chapters 10 and 11) -/

/-- 10.6, transaction 3: a SET PARTY of L 10 cut after 6 bytes. -/
theorem test_cut_frame : decodeFrame 1 [0x12, 7, 10, 0, 4, 0] = some (.frameAnswer 1 [0x12, 7, 10, 0, 4, 0]) := by decide
theorem test_frame_answer : (after (.frameAnswer 1 [0x12, 7, 10, 0, 4, 0]) three).ports[1].slot = { tag := 7, result := .frame, body := [] } := by
  decide +kernel

/-- 10.6, transaction 4: command number 0x45. -/
theorem test_unknown_frame : decodeFrame 1 [0x45, 8, 0] = some (.unknownCommand 1 0x45 8 []) := by decide
theorem test_unknown : (after (.unknownCommand 1 0x45 8 []) three).ports[1].slot = { tag := 8, result := .unknown, body := [] } := by decide +kernel

/-- 10.6, transaction 2: a NOP of L 0 with 40 zero bytes after it leaves the slot. -/
theorem test_nop : decodeFrame 1 ([0, 0, 0] ++ List.replicate 40 0) = some (.nop 1 0 []) := by decide

/-- Frames written out from R198: TAKE 1 for L4 expecting READY, SET CLOCK 10, READ TABLE, START TP1, DUMP 1. -/
theorem test_frames : decodeFrame 1 [0x25, 7, 4, 0, 4, 4, 1] = some (.take 1 7 [0, 4, 4, 1]) ∧ decodeFrame 0 [0x91, 1, 1, 10] = some (.setClock 0 1 [10]) ∧
    decodeFrame 2 [0x11, 9, 0] = some (.readTable 2 9 []) ∧ decodeFrame 0 [0x54, 3, 1, 1] = some (.start 0 3 [1]) ∧
    decodeFrame 1 [0x61, 4, 1, 1] = some (.dump 1 4 [1]) ∧ decodeFrame 0 [0x82, 5, 0] = some (.readLogic 0 5 []) := by decide

/-- R180: bits most significant first, an incomplete byte discarded; a transaction without a whole byte, and one that fell in RESET. -/
theorem test_transaction :
    decodeTransaction 0 false
      [false, false, false, true, false, false, false, true, false, false, false, false, false, true, true, false,
        false, false, false, false, false, false, false, false, true, true] = some (.readTable 0 6 []) ∧
    decodeTransaction 0 false [true, true, true] = none ∧ decodeTransaction 0 true (List.replicate 24 false) = none := by decide

/-- What is shifted out: tag, result, length, body, then zeros (R183, 10.6). -/
theorem test_shifted_out : shiftedOut (after (.unknownCommand 1 0x45 8 []) three) 1 6 = [8, 8, 0, 0, 0, 0] := by decide +kernel

/-- R180: the data output is high-impedance while CS is high, and gives the tag 8 most significant bit first while it is low. -/
theorem test_data_output :
    let t := after (.unknownCommand 1 0x45 8 []) three
    (dataOutput true t 1 0, (List.range 8).map (dataOutput false t 1)) =
      (none, [some false, some false, some false, some false, some true, some false, some false, some false]) := by decide +kernel

/-- R192: FSYNC and BCLK are held low while RESET is asserted; outside it FSYNC is high in the first bit period of slot 0 alone. -/
theorem test_audio_lines :
    (audioLines (after .reset State.reset) .tel 0 true, (audioLines State.reset .tel 0 true).fsync, (audioLines State.reset .tel 1 true).fsync) =
      ({ fsync := false, bclk := false, dout := false }, true, false) := by decide +kernel

/-- 10.7: CP1 adds CLIP to its mask, and ATTN goes low for a flag set before. -/
theorem test_mask :
    let t := after (.setEventMask 1 3 [2, 0x25]) (raise .clip three)
    (attn (raise .clip three) 1, attn t 1, (t.answer 1)) = (false, true, (.ok, [2, 0x25, 2, 0])) := by decide +kernel

/-- R189: a bit that names no flag. -/
theorem test_mask_adjusted : (after (.setEventMask 0 3 [0x10, 1]) State.reset).answer 0 = (.adjusted, [0, 1, 0, 0]) := by decide +kernel

/-- 10.7: the read reports and clears every flag of its port alone. -/
theorem test_read_events :
    let t := after (.readEvents 1 3 []) (raise .gpi (raise .ring (raise .party three)))
    ((t.answer 1).2, t.ports[1].flags, t.ports[2].flags) = ([4, 3, 0, 0], 0, 1027) := by decide +kernel

/-- READ STATUS on CP1 (R187, R199). -/
theorem test_read_status : (after (.readStatus 1 3 []) three).answer 1 = (.ok, [0x24, 0x16, 1, 1, 3, 1, 2, 0]) := by decide +kernel

/-- The straps of R185. -/
theorem test_straps :
    ((after (.resetRelease #v[⟨true, true⟩, ⟨false, true⟩, ⟨true, false⟩]) (after .reset State.reset)).ports.toList.map Port.role) =
      [.screener, .studio 0, .studio 1] := by decide +kernel

/-- While RESET is asserted the ports take no transaction (R180). -/
theorem test_in_reset : after (.readTable 0 7 []) (after .reset State.reset) = after .reset State.reset := by decide +kernel

/-- R194: 31 to 33 edges are valid. -/
theorem test_edges : [30, 31, 32, 33, 34].map edgesValid = [false, true, true, true, false] := by decide

/-- R194: FREE_RUN to RELOCK with 2^10 periods; the final period enters LOCKED with CLOCK; a loss there owes a fade-in (R195). -/
theorem test_relock : (after (.judgement 32) State.reset).clock = { Clock.atReset with lock := .relock, settle := 1024 } := by decide +kernel
theorem test_realign :
    let t := after (.realign 32) { State.reset with clock := { Clock.atReset with lock := .relock, settle := 1 } }
    (t.clock.lock, t.clock.settle, t.ports[0].flags) = (.locked, 0, 256) := by decide +kernel
theorem test_final_loss :
    (after (.judgement 0) { State.reset with clock := { Clock.atReset with lock := .relock, settle := 1 } }).clock.fadeInOwed = true := by decide +kernel

/-- R196: a value of 7 is stored as 8, adjusted. -/
theorem test_set_clock : (after (.setClock 0 7 [7]) State.reset).answer 0 = (.adjusted, [8, 0]) := by decide +kernel

/-! ## Well-formed commands: an ill-formed one for each check -/

theorem test_wellFormed_frame : (Instr.frameAnswer 0 [0x11, 1, 0]).wellFormed = false := by decide
theorem test_wellFormed_unknown : (Instr.unknownCommand 0 0x11 1 []).wellFormed = false := by decide
theorem test_wellFormed_payload : (Instr.nop 0 1 (List.replicate 125 0)).wellFormed = false := by decide +kernel
theorem test_wellFormed_line : (Instr.ring 16).wellFormed = false := by decide
theorem test_wellFormed_link : (Instr.linkUp 15).wellFormed = false := by decide
theorem test_wellFormed_good : (Instr.nop 0 1 (List.replicate 124 0)).wellFormed = true := by decide +kernel

/-! ## The queue -/

/-- Commands are taken first in, first out (log 1). -/
theorem test_queue : (match step { State.reset with pending := [.reset, .mePeriodStart] } with
    | .next t => some t.pending | _ => none) = some [.mePeriodStart] := by decide +kernel

/-! ## Witnesses: a state and operands that meet the hypotheses of each statement -/

/-- The empty queue. -/
theorem witness_StepTakesTheFrontCommand :
    State.reset.pending = [] := by decide +kernel

/-- A command while RESET is asserted. -/
theorem witness_EveryCommandCompletes :
    (after .reset State.reset).inReset = true ∧ Instr.mePeriodStart ≠ .reset ∧ ∀ x, Instr.mePeriodStart ≠ .resetRelease x := ⟨by decide +kernel, by decide, (fun _ h => by cases h)⟩

/-- The last line and the last link with two present samples each. -/
def twice : State :=
  { State.reset.line 15 { LineCtx.atReset with ring := [true, true] } with
    links := State.reset.links.set 7 { LinkCtx.atReset with link := [true, true] } }

/-- An IDLE line and an OFFLINE codec with two samples. -/
theorem witness_ResetSetsEveryRecord :
    (twice.inReset = false ∧ twice.parties[15].state = .idle ∧ twice.lines[15].ring.length < 3) ∧
      twice.parties[23].state = .offline ∧ twice.links[7].link.length < 3 := by decide +kernel

/-- A command that is neither RESET nor its release, and its next state. -/
theorem witness_RolesAreFixedAtRelease :
    (Instr.ring 0 ≠ .reset ∧ (∀ x, Instr.ring 0 ≠ .resetRelease x) ∧
      exec (.ring 0) State.reset = .next (after (.ring 0) State.reset)) ∧ State.reset.inReset = false := ⟨⟨by decide, (fun _ h => by cases h), rfl⟩, rfl⟩

/-- Seven bits, the last bit of a byte, cut frames at each of their bounds, a frame of 124 payload bytes, a number that names no command. -/
theorem witness_TransactionsFrameCheckNopAndUnknown :
    (List.replicate 7 true).length < 8 ∧ (15 : Nat) = 8 * 1 + (7 : Fin 8).val ∧ ([0x11, 1] : List Byte).length < 3 ∧ 124 < (([0, 0, 125] : List Byte).getD 2 0).toNat ∧
      ([0, 0, 1] : List Byte).length < 3 + (([0, 0, 1] : List Byte).getD 2 0).toNat ∧
      (124 : Byte).toNat ≤ 124 ∧ (124 : Byte).toNat ≤ (List.replicate 124 (0 : Byte)).length ∧ State.reset.inReset = false ∧ unknownNumber 0x45 = true := by decide +kernel

/-- The longest frame, and a cut one, with seven bits of an incomplete byte. -/
theorem witness_DecodeOfEncodeIsTheCommand :
    ((Instr.nop 0 1 (List.replicate 124 0)).wellFormed = true ∧
      encodeFrame (.nop 0 1 (List.replicate 124 0)) = some (0, wholeFrame 0 1 (List.replicate 124 0)) ∧
      (∀ j b, Instr.nop 0 1 (List.replicate 124 0) ≠ .frameAnswer j b) ∧ (List.replicate 7 true).length < 8) ∧
      (Instr.frameAnswer 1 [0x12]).wellFormed = true ∧ encodeFrame (.frameAnswer 1 [0x12]) = some (1, [0x12]) := ⟨⟨by decide +kernel, rfl, (fun _ _ h => by cases h), by decide⟩, by decide, rfl⟩

/-- The part outside RESET, with an empty payload and one that is not, and a history within three samples. -/
theorem witness_PlainReadsAnswer :
    State.reset.inReset = false ∧ ([0] : List Byte) ≠ [] ∧ State.reset.gpis[7].length ≤ 3 := by decide +kernel

/-- A payload on READ TABLE, a short one on READ PARTY, and the first index above the table. -/
theorem witness_TheTableIsRead :
    State.reset.inReset = false ∧ ([0] : List Byte) ≠ [] ∧ ([0] : List Byte).length ≠ 2 ∧
      24 ≤ (0 : Byte).toNat * 256 + (24 : Byte).toNat := by decide +kernel

/-- A port with flags set, and a payload. -/
theorem witness_ReadEventsReportsAndClears :
    (raise .gpi three).inReset = false ∧ (raise .gpi three).ports[1].flags ≠ 0 ∧ ([0] : List Byte) ≠ [] := by decide +kernel

/-- The part outside RESET, and a payload of one byte. -/
theorem witness_SetEventMaskStoresTheEnables :
    State.reset.inReset = false ∧ ([0] : List Byte).length ≠ 2 := by decide +kernel

/-- A command on CP0, seen from CP1. -/
theorem witness_OtherSlotsStand :
    Instr.nop 0 1 [] ≠ .reset ∧ exec (.nop 0 1 []) State.reset = .next (after (.nop 0 1 []) State.reset) ∧
      ∀ bytes, encodeFrame (.nop 0 1 []) ≠ some (1, bytes) := ⟨by decide, rfl, (fun _ h => by cases h)⟩

/-- A READ EVENTS of CP0 while CP1 holds PARTY. -/
theorem witness_FlagsFallOnlyByReading :
    Instr.readEvents 0 1 [] ≠ .reset ∧ (∀ tag pl, Instr.readEvents 0 1 [] ≠ .readEvents 1 tag pl) ∧
      exec (.readEvents 0 1 []) (raise .party three) = .next (after (.readEvents 0 1 []) (raise .party three)) ∧
      (raise .party three).ports[1].flags.getLsbD Event.party.bit = true := ⟨by decide, (fun _ _ h => by cases h), rfl, by decide +kernel⟩

/-- The last line in RINGING, the first codec, and a line in another state. -/
theorem witness_AnswerConnectsARingingPhone :
    ((State.reset.at 15 .ringing 0).inReset = false ∧ (15 : PartyIx).val = (15 : LineIx).val ∧
      (State.reset.at 15 .ringing 0).parties[15].state = .ringing) ∧ 16 ≤ (16 : PartyIx).val ∧ State.reset.parties[15].state ≠ .ringing := by decide +kernel

/-- From SCREENER, the last line in HOLD; and a codec, and a line in IDLE. -/
theorem witness_ScreenAndReadyMoveAPhone :
    ((three.at 15 .hold 0).inReset = false ∧ (15 : PartyIx).val < 16 ∧ (three.at 15 .hold 0).ports[0].role = .screener ∧
      (three.at 15 .hold 0).parties[15].state = .hold ∧ PState.hold ∈ [PState.hold, .ready, .priv] ∧
      PState.hold ∈ [PState.screen, .hold]) ∧
      16 ≤ (16 : PartyIx).val ∧ three.parties[15].state ∉ [PState.hold, .ready, .priv] ∧ three.parties[15].state ∉ [PState.screen, .hold] := by decide +kernel

/-- The last line on air, and the first codec in PRIVATE, on the programme of the studio. -/
theorem witness_HoldMovesAPartyAndRecordsItsMark :
    ((three.at 15 .air 1).inReset = false ∧ (three.at 15 .air 1).parties[15].state = .air ∧ (15 : PartyIx).val < 16 ∧
      PState.air ∈ [PState.screen, .ready, .priv, .air] ∧
      ∀ j, (three.at 15 .air 1).ports[2].role = .studio j → (three.at 15 .air 1).parties[15].programme = j) ∧
      (three.at 16 .priv 0).parties[16].state = .priv ∧ 16 ≤ (16 : PartyIx).val ∧ PState.priv ∈ [PState.priv, .air] ∧
      ∀ j, (three.at 16 .priv 0).ports[1].role = .studio j → (three.at 16 .priv 0).parties[16].programme = j := by decide +kernel

/-- From STUDIO-2, the last line in READY on the other programme, and the first codec in STANDBY. -/
theorem witness_PrivateAndTakeMoveAParty :
    ((three.at 15 .ready 0).inReset = false ∧ (three.at 15 .ready 0).ports[2].role = .studio 1 ∧ (15 : PartyIx).val < 16 ∧
      (three.at 15 .ready 0).parties[15].state ∈ [PState.screen, .hold, .ready, .air] ∧
      (three.at 15 .ready 0).parties[15].state ∈ [PState.hold, .ready, .priv] ∧ (three.at 15 .ready 0).parties[15].state ≠ .air ∧
      (three.at 15 .ready 0).parties[15].state ≠ .priv) ∧
      16 ≤ (16 : PartyIx).val ∧ (three.at 16 .standby 0).parties[16].state ∈ [PState.standby, .air] ∧
      (three.at 16 .standby 0).parties[16].state ∈ [PState.standby, .priv] := by decide +kernel

/-- The last line on air on the programme of the studio; the first codec; and a line in IDLE. -/
theorem witness_DropTearsAPhoneDown :
    ((three.at 15 .air 1).inReset = false ∧ (15 : PartyIx).val = (15 : LineIx).val ∧
      (three.at 15 .air 1).parties[15].state ∈ [PState.screen, .hold, .ready, .priv, .air] ∧
      ∀ j, (three.at 15 .air 1).ports[2].role = .studio j → (three.at 15 .air 1).parties[15].programme = j) ∧
      16 ≤ (16 : PartyIx).val ∧ three.parties[15].state ∈ [PState.ringing, .idle, .clearing] := by decide +kernel

/-- A programme byte of 3; READY from STUDIO-1; TAKE of a party on air on the other programme; a short payload, the first index and the
first state code that are undefined; and a stale expectation. -/
theorem witness_RefusedStateCommandsChangeNothing :
    ((3 : Byte) ≠ 1 ∧ (3 : Byte) ≠ 2) ∧ decide (three.ports[1].role = .engineering ∨ three.ports[1].role = .screener) = false ∧
      ((three.at 15 .air 1).ports[1].role = .studio 0 ∧ (three.at 15 .air 1).parties[15].programme ≠ 0) ∧
      State.reset.inReset = false ∧ ([0, 0, 0] : List Byte).length ≠ 4 ∧ 24 ≤ (0 : Byte).toNat * 256 + (24 : Byte).toNat ∧ 10 ≤ (10 : Byte).toNat ∧
      PState.ready ≠ State.reset.parties[23].state ∧ State.reset.ports[0].role = .engineering := by decide +kernel

/-- A ring at an IDLE line. -/
theorem witness_ChangeCountFollowsTheState :
    Instr.ring 15 ≠ .reset ∧ exec (.ring 15) State.reset = .next (after (.ring 15) State.reset) := ⟨by decide, rfl⟩

/-- ENGINEERING; STUDIO-2 at a party of its programme and at one of the other; STUDIO-2 selecting the other; SCREENER; programme
1 selected, and an undefined one not selected. -/
theorem witness_SetPartyStoresTheSelectedSettings :
    (State.reset.inReset = false ∧ State.reset.ports[0].role = .engineering) ∧
      (three.at 23 .air 1).inReset = false ∧ (three.at 23 .air 1).ports[2].role = .studio 1 ∧
      (three.at 23 .air 1).parties[23].programme = 1 ∧ three.parties[23].programme ≠ 1 ∧
      ((32 : Byte).getLsbD 5 = true ∧ (0 : Programme) ≠ 1) ∧ three.ports[0].role = .screener ∧
      ((32 : Byte).getLsbD 5 = true → (1 : Byte) = programmeCode 0) ∧
      ((31 : Byte).getLsbD 5 = true → (255 : Byte) = programmeCode 0) := by decide +kernel

/-- An IDLE line is one that takes a ring, an OFFLINE codec one that takes a link up, and no other. -/
theorem witness_SupervisionCausesAreAppliedOrDiscarded :
    State.reset.inReset = false ∧ (decide ((15 : PartyIx).val < 16) = true ∧ State.reset.parties[15].state ∈ [PState.idle]) ∧
      (decide ((16 : PartyIx).val < 16) = false ∧ State.reset.parties[16].state ∈ [PState.offline]) ∧
      ¬ (decide ((16 : PartyIx).val < 16) = true) := by decide +kernel

/-- Two samples; the last line; the first codec and the last. -/
theorem witness_SamplesAndEvaluationsRunTheCounts :
    State.reset.inReset = false ∧ ([true, true] : List Bool).length < 3 ∧ (15 : PartyIx).val = (15 : LineIx).val ∧
      (16 : PartyIx).val = (0 : LinkIx).val + 16 ∧ (23 : PartyIx).val = (7 : LinkIx).val + 16 := by decide +kernel

/-- Short payloads, and the first source, bus and monitor code that are undefined. -/
theorem witness_SendsMonitorAndLineTimingAreStored :
    State.reset.inReset = false ∧ ([] : List Byte).length ≠ 6 ∧ 16 ≤ (([16, 0, 0, 0, 0, 0] : List Byte).getD 0 0).toNat ∧
      5 ≤ (([0, 5, 0, 0, 0, 0] : List Byte).getD 1 0).toNat ∧ ([] : List Byte).length ≠ 1 ∧ 31 ≤ (([31] : List Byte).getD 0 0).toNat := by decide +kernel

/-- A party on air, whose feed is a bus-derived one; the last gain code, the first that is OFF, and unity. -/
theorem witness_PeriodStartTakesTheControlState :
    (State.reset.at 23 .air 1).inReset = false ∧ (192 : Byte).toNat ≤ 192 ∧ 193 ≤ (193 : Byte).toNat ∧ (12 : Byte) = 12 := by decide +kernel

/-- The part outside RESET. -/
theorem witness_KeyChangesRampOrAreHeld :
    State.reset.inReset = false := by decide +kernel

/-- A ramp that rises and one that falls. -/
theorem witness_RampsLandInTheirPeriod :
    ({ old := 0, new := 32690 } : Ramp).old ≤ ({ old := 0, new := 32690 } : Ramp).new ∧
      ({ old := 32690, new := 0 } : Ramp).new ≤ ({ old := 32690, new := 0 } : Ramp).old ∧
      ({ old := 7, new := 7 } : Ramp).old = ({ old := 7, new := 7 } : Ramp).new := by decide +kernel

/-- The conditions on coefficients and feeds hold in the frame of 4.8. -/
theorem taken_mixOk : MixOk taken where
  gains := by unfold gainOk; decide +kernel
  sends := by unfold Ramp.ok; decide +kernel
  sources := by unfold Ramp.ok; decide +kernel
  returns := by unfold Ramp.ok; decide +kernel
  talks := by
    have h : ∀ p : PartyIx, taken.partyMix[p].keyUse = none ∧ taken.partyMix[p].leaving = none := by decide +kernel
    refine fun p => ⟨fun u hu => ?_, fun u hu => ?_⟩
    · rw [(h p).1] at hu; exact absurd hu nofun
    · rw [(h p).2] at hu; exact absurd hu nofun
  feeds := by
    have h : ∀ p : PartyIx, (match taken.partyMix[p].feedOld with | .bus _ m _ => m[p] | _ => true) = true ∧
        (match taken.partyMix[p].feedNew with | .bus _ m _ => m[p] | _ => true) = true := by decide +kernel
    intro p
    refine ⟨?_, ?_⟩
    · have := (h p).1
      cases hf : taken.partyMix[p].feedOld <;> rw [hf] at this <;> trivial
    · have := (h p).2
      cases hf : taken.partyMix[p].feedNew <;> rw [hf] at this <;> trivial
  oneBus := by decide +kernel

/-- The frame of 4.8, and the last frame of a period. -/
theorem witness_FrameFormsTheBuses :
    taken.inReset = false ∧ taken.mix.frame ≠ 31 ∧ ({ Mix.atReset with frame := 31 } : Mix).frame = 31 ∧ MixOk taken := ⟨rfl, by decide +kernel, rfl, taken_mixOk⟩

/-- The last party hears P2 without L9 on the frame of 3.7, which is too loud for a sample. -/
def loud : State := worked.mixOf 23 (onBus (.bus 1 (setOf 24 [9, 23]) (setOf 16 [])) 1 0 16384)

/-- A mix value that saturates, at the first point and the last that report a return. -/
theorem witness_MixMinusHoldsOnlyTheWantedTerms :
    loud.inReset = false ∧ (33 : PointIx).val = 24 + (9 : PartyIx).val ∧ mixClips loud frame loud.partyMix[9].feedOld = true ∧
      (47 : PointIx).val = 24 + (23 : PartyIx).val ∧ mixClips loud frame loud.partyMix[23].feedNew = true := by decide +kernel

/-- L3 of 3.7, which speaks in one frame and not in the other. -/
theorem witness_NoPartyHearsWhatItsFeedKeepsOut :
    worked.inReset = false ∧ frame.stu = { frame with tel := frame.tel.set 3 0 }.stu ∧
      partyInput frame 3 ≠ partyInput { frame with tel := frame.tel.set 3 0 } 3 ∧
      ∀ j : PartyIx, partyInput frame j ≠ partyInput { frame with tel := frame.tel.set 3 0 } j →
        worked.partyMix[3].feedOld.hides j ∧ worked.partyMix[3].feedNew.hides j := by
  refine ⟨rfl, rfl, by decide +kernel, fun j h => ?_⟩
  have hj : ∀ j : PartyIx, partyInput frame j ≠ partyInput { frame with tel := frame.tel.set 3 0 } j → j = 3 := by decide +kernel
  obtain rfl := hj j h
  have h1 : (setOf 24 [3])[(3 : PartyIx)] = true := by decide
  exact ⟨h1, h1⟩

/-- A party with no feed, no key and no tones. -/
theorem witness_ReturnIsFormedInStages :
    State.reset.inReset = false ∧ State.reset.partyMix[23].feedOld = .silence ∧ State.reset.partyMix[23].feedNew = .silence ∧
      State.reset.partyMix[23].keyUse = none ∧ State.reset.partyMix[23].leaving = none ∧
      ∀ j : PlayerIx, State.reset.partyMix[23].tonePlayers[j] = false := by decide +kernel

/-- A selection that changes, one that stands, and the last frame of a period. -/
theorem witness_MonitorCrossfadesToItsSelection :
    State.reset.inReset = false ∧ State.reset.mix.monitorOld = State.reset.mix.monitorNew ∧
      ({ Mix.atReset with monitorNew := 30 } : Mix).monitorOld ≠ ({ Mix.atReset with monitorNew := 30 } : Mix).monitorNew ∧
      ({ Mix.atReset with frame := 31 } : Mix).frame = 31 := by decide +kernel

/-- Outside a dip. -/
theorem witness_OutputSlotsCarryTheFrameBeforeLast :
    State.reset.inReset = false ∧ dipCoef State.reset.clock State.reset.mix.frame = 16384 := by decide +kernel

/-- The first and last points of each kind, with clear flags, and a flag that is set. -/
theorem witness_FrameMetersAndReportsClips :
    State.reset.inReset = false ∧ ((64 : PointIx).val = 64 + (0 : BusIx).val ∧ (68 : PointIx).val = 64 + (4 : BusIx).val ∧ State.reset.points[64].clip = false) ∧
      ((24 : PointIx).val = 24 + (0 : PartyIx).val ∧ (47 : PointIx).val = 24 + (23 : PartyIx).val ∧ State.reset.points[47].clip = false) ∧
      ((23 : PointIx).val < 24 ∧ 48 ≤ (48 : PointIx).val ∧ (63 : PointIx).val < 64 ∧ 69 ≤ (69 : PointIx).val) ∧
      ({ Point.atReset with clip := true } : Point).clip = true := by decide +kernel

/-- The part outside RESET. -/
theorem witness_KeysAreReformedAndAsk :
    State.reset.inReset = false := by decide +kernel

/-- The last source and no trigger cell, both selected. -/
theorem witness_SetKeyStoresAndActsAtItsParties :
    State.reset.inReset = false ∧ (33 : Byte).getLsbD 0 = true ∧ (15 : Byte).toNat < 16 ∧ (33 : Byte).getLsbD 5 = true ∧ (8 : Byte).toNat ≤ 8 := by decide +kernel

/-- L2 of 5.7 with K1 in service and K3 and K2 behind it. -/
def listed : State := (State.reset.at 2 .air 0).context 2 [1, 3, 2] (some 1)

/-- The conditions on request lists hold there. -/
theorem listed_foldBacksOk : FoldBacksOk listed where
  once := by decide +kernel
  served := by decide +kernel
  connected := by decide +kernel
  enabled := by decide +kernel

/-- K1 in service at L2, a request of K0, and a reconsideration of K3. -/
theorem witness_RequestsReleasesAndReconsiderations :
    listed.inReset = false ∧ FoldBacksOk listed ∧ ServesHighest (priorityOf listed) listed.foldBacks[2] ∧ (3 : KeyIx) ∈ listed.foldBacks[2].list := ⟨rfl, listed_foldBacksOk, by unfold ServesHighest; decide +kernel, by decide +kernel⟩

/-- AD1 with two samples still to read, in BUILDING toward 96000. -/
def filling : State :=
  { (cued .building 2 0 fun d => { d with targetInUse := 96000 }) with sram := [(0, 5), (1, 6)], writers := [(0, 0), (1, 0)] }

/-- The conditions on the delays hold there. -/
theorem filling_delaysOk : DelaysOk filling := fun k => {
  length := by revert k; decide +kernel
  bypass := by revert k; decide +kernel
  target := by revert k; decide +kernel
  inUse := by revert k; decide +kernel
  segment := by revert k; decide +kernel
  codes := by revert k; decide +kernel
  peak := by revert k; decide +kernel
  dumps := by revert k; decide +kernel
  out := by revert k; decide +kernel
  back := by revert k; decide +kernel
  waits := by revert k; decide +kernel
  trigger := by revert k; decide +kernel }

/-- What is still to read was written. -/
theorem filling_heldOk : HeldOk filling := by
  have h : ∀ k : Programme, ∀ n < filling.delays[k].length,
      (sramRead filling.sram (wordAddr filling.memInUse k (filling.delays[k].rd + BitVec.ofNat 32 n))).isSome = true ∧
        sramRead filling.writers (wordAddr filling.memInUse k (filling.delays[k].rd + BitVec.ofNat 32 n)) = some k := by decide +kernel
  exact h

/-- A delay in range; an insert and a skip in the last frame of a period. -/
theorem witness_DelayFrameWritesAndReads :
    filling.inReset = false ∧ DelayOk filling.memSize filling.delays[0] ∧
      inserts { Delay.atReset with state := .building, quiet := true, targetInUse := 1 } 31 = true ∧
      skips { Delay.atReset with state := .shrinking, quiet := true, w := 1 } 31 = true :=
  ⟨rfl, filling_delaysOk 0, by decide, by decide⟩

/-- The part outside RESET. -/
theorem witness_DelayPeriodStartTakesTheState :
    State.reset.inReset = false := by decide +kernel

/-- The part outside RESET. -/
theorem witness_DumpRequestsAreTakenByTheState :
    State.reset.inReset = false := by decide +kernel

/-- The last hold-feed mode and no trigger cell, both selected. -/
theorem witness_DelaySettingsAreStored :
    State.reset.inReset = false ∧ (96 : Byte).getLsbD 5 = true ∧ (1 : Byte).toNat < 2 ∧ (96 : Byte).getLsbD 6 = true ∧ (8 : Byte).toNat ≤ 8 := by decide +kernel

/-- The shortest runs and the longest, and the first undefined selection. -/
theorem witness_ToneMemoryIsWrittenAndRead :
    State.reset.inReset = false ∧ 2 ≤ (2 : Byte).toNat ∧ 1 ≤ [((1, 2) : Byte × Byte)].length ∧ (List.replicate 60 ((1, 2) : Byte × Byte)).length ≤ 60 ∧
      (List.replicate 32 ((1, 2) : Byte × Byte)).length ≤ 32 := by decide +kernel

/-- The last mode and no trigger cell, both selected. -/
theorem witness_PlayerAndRouteSettingsAreStored :
    State.reset.inReset = false ∧ (12 : Byte).getLsbD 2 = true ∧ (1 : Byte).toNat < 2 ∧ (12 : Byte).getLsbD 3 = true ∧ (8 : Byte).toNat ≤ 8 := by decide +kernel

/-- The first player number that is undefined. -/
theorem witness_PlayersStartStopAndAbort :
    State.reset.inReset = false ∧ 4 ≤ (4 : Byte).toNat := by decide +kernel

/-- The part outside RESET. -/
theorem witness_PlayerPeriodStartMakesStepProgress :
    State.reset.inReset = false := by decide +kernel

/-- A rest and the last pitch. -/
theorem witness_TonesFollowTheirTriangle :
    State.reset.inReset = false ∧ Player.atReset.current.pitch = 0 ∧
      ({ Player.atReset with current := { Step.atReset with pitch := 31 } } : Player).current.pitch ≠ 0 := by decide +kernel

/-- The last metering mode; the first point alone, the last alone, and all; the last supervisor mode. -/
theorem witness_MeterCommandsStoreTheirSettings :
    State.reset.inReset = false ∧ (2 : Byte).toNat < 3 ∧ ((70 : Byte).toNat ≤ 70 ∧ 1 ≤ (1 : Byte).toNat ∧ (70 : Byte).toNat + (1 : Byte).toNat ≤ 71) ∧
      ((0 : Byte).toNat ≤ 70 ∧ (0 : Byte).toNat + (71 : Byte).toNat ≤ 71) ∧ (1 : Byte).toNat < 2 := by decide +kernel

/-- The part outside RESET; the greatest magnitude with code 0, the least with code 1, and the greatest of all. -/
theorem witness_MeterPeriodStartTakesThePhase :
    State.reset.inReset = false ∧ 255 < 256 ∧ (2 ^ (1 + 7) ≤ 256 ∧ 256 < 2 ^ (1 + 8)) ∧ 8388607 ≤ 8388607 ∧
      2 ^ (15 + 7) ≤ 8388607 := by decide +kernel

/-- The last signal, filter, party, selection and polarity. -/
theorem witness_CellAndPinSettingsAreStored :
    State.reset.inReset = false ∧ (45 : Byte).toNat < 46 ∧ (2 : Byte).toNat < 3 ∧ (23 : Byte).toNat < 24 ∧ (9 : Byte).toNat < 10 ∧ (1 : Byte).toNat < 2 := by decide +kernel

/-- The part outside RESET. -/
theorem witness_PeriodEndEvaluatesTheCells :
    State.reset.inReset = false := by decide +kernel

/-- The part outside RESET. -/
theorem witness_JudgementMovesTheLockState :
    State.reset.inReset = false := by decide +kernel

/-- A payload of two bytes; FREE_RUN with 31 edges and with 33. -/
theorem witness_SetClockStoresTheExponent :
    State.reset.inReset = false ∧ ([10, 10] : List Byte).length ≠ 1 ∧ State.reset.clock.lock = .freeRun ∧ 31 ≤ 31 ∧ 33 ≤ 33 := by decide +kernel

/-- READ TABLE with a payload. -/
theorem witness_RefusedCommandsChangeNothing :
    encodeFrame (.readTable 0 7 [0]) = some (0, [0x11, 7, 1, 0]) ∧ State.reset.inReset = false ∧
      exec (.readTable 0 7 [0]) State.reset = .next (after (.readTable 0 7 [0]) State.reset) ∧
      (after (.readTable 0 7 [0]) State.reset).ports[0].slot.result ≠ .ok ∧
      (after (.readTable 0 7 [0]) State.reset).ports[0].slot.result ≠ .adjusted := ⟨by decide, rfl, rfl, by decide +kernel, by decide +kernel⟩

/-- The first value out of range of an operand, the first of a setting with its selection bit, an undefined programme; runs of a step
too many and of no whole entry; an empty payload, of a length that no listed command has, and one a byte too long for READ PARTY. -/
theorem witness_WrongLengthsAndOperandsAreIllegal :
    State.reset.inReset = false ∧ 24 ≤ (0 : Byte).toNat * 256 + (24 : Byte).toNat ∧
      ((3 : Byte).toNat < 4 ∧ 3 ≤ (3 : Byte).toNat) ∧ ((1 : Byte).getLsbD 0 = true ∧ 16 ≤ (16 : Byte).toNat) ∧
      ((32 : Byte).getLsbD 5 = true ∧ 9 ≤ (9 : Byte).toNat ∧ (0 : Byte) ≠ 1 ∧ (0 : Byte) ≠ 2) ∧
      (71 ≤ (71 : Byte).toNat ∧ 72 ≤ (70 : Byte).toNat + (2 : Byte).toNat) ∧
      (∀ n, 1 ≤ n → n ≤ 60 → (List.replicate 123 (0 : Byte)).length ≠ 1 + 2 * n) ∧
      (∀ n, 1 ≤ n → n ≤ 32 → (List.replicate 2 (0 : Byte)).length ≠ 1 + 2 * n) ∧
      (∀ n ∈ [1, 2, 3, 4, 5, 6, 7, 9, 10, 11, 12], ([] : List Byte).length ≠ n) ∧ ([0, 1, 2] : List Byte).length ≠ 2 :=
  ⟨rfl, by decide, by decide, by decide, by decide, by decide, fun n _ _ h => by rw [List.length_replicate] at h; omega,
    fun n _ _ h => by rw [List.length_replicate] at h; omega, by decide, by decide⟩

/-- L2 on air with a request list, and a release waiting. -/
theorem witness_StepsKeepThePartiesAndTheirLists :
    PartiesOk { listed with pending := [.release 1 2] } ∧ FoldBacksOk { listed with pending := [.release 1 2] } ∧
      ServicesOk { listed with pending := [.release 1 2] } ∧ ∃ t, step { listed with pending := [.release 1 2] } = .next t := ⟨{ legal := by decide +kernel, gains := by unfold gainOk; decide +kernel, mark := by decide +kernel },
    { once := by decide +kernel, served := by decide +kernel, connected := by decide +kernel, enabled := by decide +kernel },
    by unfold ServicesOk ServesHighest; decide +kernel, _, rfl⟩

/-- AD1 with two samples to read: a step, and the read of a frame. -/
theorem witness_StepsKeepTheDelaysInRange :
    (DelaysOk filling ∧ MemoryOk filling ∧ ModeOk filling ∧ HeldOk filling ∧ ∃ t, step filling = .next t) ∧
      readCount filling.delays[0] 31 ≠ filling.delays[0].w ∧ inserts filling.delays[0] 31 = false ∧
      MemAccess.read 0 ∈ accesses filling.memInUse filling 0 0 31 :=
  ⟨⟨filling_delaysOk, ⟨by unfold Memory.wf; decide +kernel, by decide +kernel, by decide +kernel⟩, .inl rfl, filling_heldOk, _, rfl⟩, by decide +kernel,
    by decide +kernel, by decide +kernel⟩

/-- The pressed button of 9.8, with K0 held on by CP2 and an active trigger. -/
def pressing : State :=
  (button true true true).withKey 0 fun k => { k with trigger := some 2, triggerOut := true, latches := setOf 3 [2], active := true }

/-- The pressed button of 9.8 with a key held on. -/
theorem witness_StepsKeepKeysLogicLinesAndClock :
    (KeysOk pressing ∧ LogicOk pressing ∧ LinesOk pressing ∧ ClockOk pressing.clock ∧ SlotsOk pressing) ∧
      ∃ t, step pressing = .next t := ⟨⟨{ active := by decide +kernel, trigger := by decide +kernel, gains := by unfold gainOk; decide +kernel },
    { samples := by decide +kernel, constant := by decide +kernel, off := by decide +kernel },
    { samples := by decide +kernel, links := by decide +kernel, counts := by decide +kernel },
    { exponent := by decide +kernel, settle := by decide +kernel, relock := by decide +kernel, owed := by decide +kernel,
      first := by decide +kernel }, by unfold SlotsOk; decide +kernel⟩, _, rfl⟩

/-- TP1 of 7.8 in its last step, in a measurement. -/
def beeping : State :=
  (pip fun x => { x with
    state := .playing, stepAddr := 12, remaining := 1, latchedTick := 50, current := { pitch := 1, length := 3, level := 1, last := true } }).metering
    { mode := .periodic, window := 12, repeats := 4, phase := .measuring, windowInUse := 8, periodsLeft := 1, measurements := 1 }

/-- The players of it are in range. -/
theorem beeping_players (j : PlayerIx) : PlayerOk beeping.players[j] where
  tick := by revert j; decide +kernel
  latched := by revert j; decide +kernel
  current := by revert j; unfold Step.ok; decide +kernel
  remaining := by revert j; decide +kernel
  idle := by revert j; decide +kernel
  waiting := by revert j; decide +kernel
  trigger := by revert j; decide +kernel

/-- The supervisors of it are in range. -/
theorem beeping_sups (n : SupIx) : SupOk beeping.sups[n] where
  threshold := by
    have still : beeping.sups[n].mode = .silence ∧ beeping.sups[n].threshold + beeping.sups[n].hyst ≤ 15 := by revert n; decide +kernel
    rw [still.1]; exact still.2
  hyst := by revert n; decide +kernel
  count := by revert n; decide +kernel
  run := by revert n; decide +kernel
  alarm := by revert n; decide +kernel

/-- The last step of 7.8 in a measurement. -/
theorem witness_StepsKeepTonesAndMetersInRange :
    TonesOk beeping ∧ MetersOk beeping ∧ ∃ t, step beeping = .next t :=
  ⟨{ steps := by unfold Step.ok; decide +kernel, pitches := by decide +kernel, players := beeping_players,
     routes := by unfold gainOk; decide +kernel },
    { window := by decide +kernel, inUse := by decide +kernel, repeats := by decide +kernel, left := by decide +kernel,
      stopped := by decide +kernel, codes := by decide +kernel, clips := by decide +kernel, sups := beeping_sups }, _, rfl⟩

/-- The frame of 4.8. -/
theorem witness_StepsKeepTheMix :
    MixOk taken ∧ ∃ t, step taken = .next t := ⟨taken_mixOk, _, rfl⟩

end Sys2Proof.Machine
end

section
/-! SUPPORT. What a change of a party's state does (R8): the record, the mark, the request list and the counts of the line, each
by a lemma of its own, and what it leaves. -/

namespace Sys2Proof.Machine

variable (p : PartyIx) (st : PState) (k : Programme) (s : State)

/-! ## The counts of a line (R43) -/

/-- An update of a line's context reaches that line alone. -/
theorem onLine_line (f : LineCtx → LineCtx) (n : LineIx) :
    (onLine p f s).lines[n] = if n.val = p.val then f s.lines[n] else s.lines[n] := by
  unfold onLine
  split
  · by_cases h : n.val = p.val
    · simp [h]
    · simp [h, Ne.symm h]
  · rw [if_neg (by omega)]

/-- A change of state keeps the samples of the line. -/
theorem lineChange_samples (old new : PState) (c : LineCtx) :
    (lineChange old new c).ring = c.ring ∧ (lineChange old new c).loop = c.loop := by
  unfold lineChange
  split <;> first | exact ⟨rfl, rfl⟩ | (split <;> exact ⟨rfl, rfl⟩)

/-- A move between connected states leaves the counts (R43). -/
theorem lineChange_connected {old new : PState} (ho : old.connected = true) (hn : new.connected = true) (c : LineCtx) :
    lineChange old new c = c := by
  unfold lineChange; split <;> simp_all [PState.connected]

/-- A teardown of a phone restarts the clearing guard and forgets the loop (R43). -/
theorem lineChange_clearing {old : PState} (ho : old.phoneConnected = true) (c : LineCtx) :
    lineChange old .clearing c = { c with answerCount := 0, loopSeen := false, dropCount := 0, clearingCount := 0 } := by
  unfold lineChange; split <;> simp_all [PState.phoneConnected]

/-! ## The record and the other items of a change of state -/

theorem changeState_parties : (changeState p st k s).parties = s.parties.set p (recordAfter s p st k) := by
  simp only [changeState, raise_parties, onLine_parties]

theorem changeState_foldBacks :
    (changeState p st k s).foldBacks = s.foldBacks.set p (foldBackAfter s p s.parties[p].state st) := by
  simp only [changeState, raise_foldBacks, onLine_foldBacks]

theorem changeState_party (j : PartyIx) :
    (changeState p st k s).parties[j] = if j = p then recordAfter s p st k else s.parties[j] := by
  rw [changeState_parties, set_get]

theorem changeState_foldBack (j : PartyIx) :
    (changeState p st k s).foldBacks[j] = if j = p then foldBackAfter s p s.parties[p].state st else s.foldBacks[j] := by
  rw [changeState_foldBacks, set_get]

theorem changeState_line (n : LineIx) :
    (changeState p st k s).lines[n] =
      if n.val = p.val then lineChange s.parties[p].state st s.lines[n] else s.lines[n] := by
  simp only [changeState, raise_lines, onLine_line]

@[simp] theorem changeState_party_self : (changeState p st k s).parties[p] = recordAfter s p st k := by
  rw [changeState_party, if_pos rfl]

@[simp] theorem changeState_foldBack_self :
    (changeState p st k s).foldBacks[p] = foldBackAfter s p s.parties[p].state st := by
  rw [changeState_foldBack, if_pos rfl]

/-- A change of state concerns its party alone. -/
theorem changeState_onlyParty : OnlyParty p s (changeState p st k s) where
  rest := by rw [changeState_changes]
  parties := by rw [changeState_parties]; exact sameBut_set _ _ _
  foldBacks := by rw [changeState_foldBacks]; exact sameBut_set _ _ _
  lines n h := by rw [changeState_line, if_neg h]
  samples n := by
    rw [changeState_line]
    split
    · exact lineChange_samples _ _ _
    · exact ⟨rfl, rfl⟩

/-! ## Request lists at a change of state (R10, R11, R102, R103) -/

/-- A move between connected states leaves the context. -/
theorem foldBackAfter_same {old new : PState} (h : old.connected = new.connected) :
    foldBackAfter s p old new = s.foldBacks[p] := by
  unfold foldBackAfter; cases ho : old.connected <;> simp [← h, ho]

/-- A teardown empties the list and ends the service (R103). -/
theorem foldBackAfter_teardown {old new : PState} (ho : old.connected = true) (hn : new.connected = false) :
    foldBackAfter s p old new = { list := [], inService := none } := by
  unfold foldBackAfter; simp [ho, hn]

/-- A connection enters the active keys that name the party and serves (R102). -/
theorem foldBackAfter_connection {old new : PState} (ho : old.connected = false) (hn : new.connected = true) :
    foldBackAfter s p old new =
      serve (priorityOf s) s.parties[p].foldBack true { list := connectingKeys s p, inService := none } := by
  unfold foldBackAfter; simp [ho, hn]

/-- A context served anew has the key that selection finds where the fold-back is on and the party connected, and none where the
list is empty or either is not (R97). -/
theorem serve_fresh (pri : KeyIx → Nat) (e c : Bool) (f : FoldBack) (h : f.inService = none) :
    (∀ j, (serve pri e c f).inService = some j → Selected pri f.list j) ∧
      ((serve pri e c f).inService = none ↔ f.list = [] ∨ e = false ∨ c = false) := by
  rw [serve_inService pri e c f h]
  constructor
  · intro j hj
    split at hj
    · exact selectKey_selected hj
    · cases hj
  · split
    · next hec =>
      obtain ⟨rfl, rfl⟩ := Bool.and_eq_true_iff.1 hec
      simp [selectKey_none]
    · next hec => cases e <;> cases c <;> simp at hec ⊢

/-- A move that keeps the connection leaves every context. -/
theorem changeState_foldBacks_same (h : s.parties[p].state.connected = st.connected) :
    (changeState p st k s).foldBacks = s.foldBacks := by
  rw [changeState_foldBacks, foldBackAfter_same p s h, set_self]

/-- A move between connected states leaves every line. -/
theorem changeState_lines_connected (ho : s.parties[p].state.connected = true) (hn : st.connected = true) :
    (changeState p st k s).lines = s.lines := by
  ext1 i hi
  have h := changeState_line p st k s ⟨i, hi⟩
  simp only [lineChange_connected ho hn, ite_self] at h
  exact h

/-! ## The mark (R12, R13) -/

/-- HOLD of a phone on air records the write count of its delay where that is not in BYPASS, and keeps it where the guard's test
holds (R12, R129). -/
theorem markAfter_hold_air (old : PartyRec) (hp : kindOf p = .phone) (ho : old.state = .air) (hd : s.delays[k].state.on = true) :
    markAfter s p old .hold k = if guardHolds s.memSize s.delays[k] s.delays[k].w then some s.delays[k].w else none := by
  unfold markAfter; rw [if_pos ⟨hp, ho, rfl, hd⟩]

/-- A change of state that records no mark keeps the one held exactly where the party does not leave HOLD and READY, keeps its
programme and is not torn down (R13). -/
theorem markAfter_kept (old : PartyRec) (h : ¬ (kindOf p = .phone ∧ old.state = .air ∧ st = .hold ∧ s.delays[k].state.on = true)) :
    markAfter s p old st k =
      if (old.state.waiting ∧ ¬ (st.waiting ∧ k = old.programme)) ∨ k ≠ old.programme
        ∨ (old.state.connected ∧ ¬ st.connected) then none
      else old.echoMark := by
  unfold markAfter; rw [if_neg h]

/-- The kind of a party by its index (R1). -/
theorem kindOf_phone : kindOf p = .phone ↔ p.val < 16 := by unfold kindOf; split <;> simp [*]

theorem kindOf_codec : kindOf p = .codec ↔ 16 ≤ p.val := by unfold kindOf; split <;> simp <;> omega

/-- A delay is on in every state but BYPASS. -/
theorem delay_on (d : DelayState) : d.on = true ↔ d ≠ .bypass := by cases d <;> simp [DelayState.on]

end Sys2Proof.Machine
end

section
/-! SUPPORT. The conditions on one request list (R96, R97, R101, R103), and each operation of the Fold-back Arbiter against them. -/

namespace Sys2Proof.Machine

/-! ## The conditions at one party -/

/-- The conditions of FoldBacksOk at one context, with the fold-back enable and the connection of its party. -/
structure ContextOk (enable connected : Bool) (f : FoldBack) : Prop where
  once : f.list.Nodup
  served : ∀ k, f.inService = some k → k ∈ f.list
  connected : connected = false → f.list = []
  enabled : f.inService.isSome = true → enable = true

/-- FoldBacksOk is the condition at every party. -/
theorem foldBacksOk_iff (s : State) :
    FoldBacksOk s ↔ ∀ p : PartyIx, ContextOk s.parties[p].foldBack s.parties[p].state.connected s.foldBacks[p] :=
  ⟨fun h p => ⟨h.once p, h.served p, h.connected p, h.enabled p⟩,
    fun h => ⟨fun p => (h p).once, fun p => (h p).served, fun p => (h p).connected, fun p => (h p).enabled⟩⟩

variable {pri : KeyIx → Nat} {e c : Bool} {k : KeyIx} {f : FoldBack}

/-- A context without a service. -/
theorem ContextOk.idle {l : List KeyIx} (once : l.Nodup) (connected : c = false → l = []) :
    ContextOk e c { list := l, inService := none } :=
  ⟨once, nofun, connected, nofun⟩

/-- A service that is ended. -/
theorem ContextOk.end (h : ContextOk e c f) : ContextOk false c { f with inService := none } := .idle h.once h.connected

/-- The same list with a listed key in service. -/
theorem ContextOk.serving (h : ContextOk e c f) (he : e = true) (hk : k ∈ f.list) :
    ContextOk e c { f with inService := some k } :=
  ⟨h.once, by rintro j ⟨⟩; exact hk, h.connected, fun _ => he⟩

/-! ## Each operation keeps the conditions -/

theorem ContextOk.serve (h : ContextOk e c f) : ContextOk e c (serve pri e c f) := by
  unfold Machine.serve
  split
  · next hg =>
    obtain ⟨⟨-, rfl⟩, -⟩ : (f.inService.isNone = true ∧ e = true) ∧ c = true := by simpa using hg
    cases hk : selectKey pri f.list with
    | none => exact .idle h.once h.connected
    | some k => exact h.serving rfl (selectKey_selected hk).mem
  · exact h

theorem ContextOk.takeRequest (h : ContextOk e c f) : ContextOk e c (takeRequest pri e c k f) := by
  unfold Machine.takeRequest
  split
  · exact h
  · next hg =>
    obtain ⟨rfl, hk⟩ : c = true ∧ k ∉ f.list := by simpa using hg
    have hlist : ContextOk e true { f with list := f.list ++ [k] } :=
      ⟨List.nodup_append.2 ⟨h.once, List.nodup_singleton k, by rintro a ha b hb rfl; exact hk (by simp_all)⟩,
        fun j hj => List.mem_append_left _ (h.served j hj), nofun, h.enabled⟩
    cases e with
    | false => exact hlist
    | true =>
      dsimp only
      cases hs : f.inService with
      | none => simpa [hs] using hlist.serve (pri := pri)
      | some sv =>
        simp only [Bool.not_true, Bool.false_eq_true, if_false]
        split
        · exact hlist.serving rfl (by simp)
        · exact hs ▸ hlist

theorem ContextOk.erase (h : ContextOk e c f) : ContextOk e c { list := f.list.erase k, inService := none } :=
  .idle (h.once.erase k) fun hc => by rw [h.connected hc]; rfl

theorem ContextOk.takeRelease (h : ContextOk e c f) : ContextOk e c (takeRelease pri e c k f) := by
  unfold Machine.takeRelease
  split
  · split
    · exact h.erase.serve
    · next hk =>
      exact ⟨h.erase.once, fun j hj => (List.mem_erase_of_ne (by rintro rfl; exact hk hj)).2 (h.served j hj),
        h.erase.connected, h.enabled⟩
  · exact h

theorem ContextOk.reconsider (h : ContextOk e c f) : ContextOk e c (reconsider pri e c f) := by
  unfold Machine.reconsider
  split
  · exact h.serve
  · next sv hs =>
    split
    · exact h
    · next b hb =>
      split
      · exact h.serving (h.enabled (by simp [hs])) (selectKey_selected hb).mem
      · exact h

theorem ContextOk.keyTaken {left joined changed : Bool} (h : ContextOk e c f) :
    ContextOk e c (keyTaken pri e c k left joined changed f) :=
  keyTaken_keeps left joined changed h (fun _ => .takeRelease) (fun _ => .takeRequest) (fun _ => .reconsider)

/-! ## The law of R97 -/

/-- A context without a service keeps the law. -/
theorem ServesHighest.idle (h : f.inService = none) : ServesHighest pri f := fun k hk => by rw [h] at hk; cases hk

/-- A context that is served keeps the law. -/
theorem ServesHighest.serve (h : ServesHighest pri f) : ServesHighest pri (serve pri e c f) := by
  unfold Machine.serve
  split
  · exact fun k hk => (selectKey_selected hk).least
  · exact h

theorem ServesHighest.takeRequest (hf : ContextOk e c f) (h : ServesHighest pri f) :
    ServesHighest pri (takeRequest pri e c k f) := by
  unfold Machine.takeRequest
  split
  · exact h
  · cases e with
    | false =>
      have hs : f.inService = none := by simpa using hf.enabled
      exact .idle hs
    | true =>
      dsimp only
      cases hs : f.inService with
      | none => exact (ServesHighest.idle rfl).serve
      | some sv =>
        have hsv := h sv hs
        simp only [Bool.not_true, Bool.false_eq_true, if_false]
        split
        · next hlt =>
          rintro j ⟨⟩ i hi
          rcases List.mem_append.1 hi with hi | hi
          · exact hlt.le.trans (hsv i hi)
          · rw [List.mem_singleton.1 hi]
        · next hlt =>
          rintro j ⟨⟩ i hi
          rcases List.mem_append.1 hi with hi | hi
          · exact hsv i hi
          · rw [List.mem_singleton.1 hi]; omega

/-- A reconsideration brings the law about, whatever the priorities were before (R100). -/
theorem ServesHighest.of_reconsider : ServesHighest pri (reconsider pri e c f) := by
  unfold Machine.reconsider
  split
  · next hs => exact (ServesHighest.idle hs).serve
  · next sv hs =>
    split
    · next hn =>
      intro k hk i hi
      rw [selectKey_none.1 hn] at hi
      cases hi
    · next b hb =>
      have hleast := (selectKey_selected hb).least
      split
      · rintro j ⟨⟩; exact hleast
      · next hlt =>
        intro j hj i hi
        obtain rfl : sv = j := by rw [hs] at hj; exact Option.some.inj hj
        have := hleast i hi
        omega

theorem ServesHighest.reconsider (_ : ServesHighest pri f) : ServesHighest pri (reconsider pri e c f) := .of_reconsider

/-- The law reads the priorities of the listed keys alone. -/
theorem ServesHighest.congr {pri' : KeyIx → Nat} (hf : ContextOk e c f) (heq : ∀ j ∈ f.list, pri' j = pri j)
    (h : ServesHighest pri f) : ServesHighest pri' f := by
  intro k hk i hi
  rw [heq k (hf.served k hk), heq i hi]
  exact h k hk i hi

/-- A release keeps the law, also against priorities that differ at the key released (R99). -/
theorem ServesHighest.takeRelease {pri' : KeyIx → Nat} (hf : ContextOk e c f) (hother : ∀ j, j ≠ k → pri' j = pri j)
    (h : ServesHighest pri f) : ServesHighest pri' (takeRelease pri' e c k f) := by
  unfold Machine.takeRelease
  split
  · split
    · exact (ServesHighest.idle rfl).serve
    · next hk =>
      intro j hj i hi
      have hi' := (hf.once.mem_erase_iff).1 hi
      rw [hother j (by rintro rfl; exact hk hj), hother i hi'.1]
      exact h j hj i hi'.2
  · next hk => exact h.congr hf fun j hj => hother j (by rintro rfl; exact hk (by simpa using hj))

/-- An arrival with a changed priority is the one without, and after it the reconsideration where the list holds the key. -/
theorem keyTaken_changed (pri : KeyIx → Nat) (e c : Bool) (k : KeyIx) (left joined : Bool) (f : FoldBack) :
    keyTaken pri e c k left joined true f =
      if k ∈ (keyTaken pri e c k left joined false f).list then reconsider pri e c (keyTaken pri e c k left joined false f)
      else keyTaken pri e c k left joined false f := by
  simp [Machine.keyTaken]

/-- An arrival of a key keeps the law against the priorities as stored, which differ from those before at that key alone, and
there only where the arrival says so (R105). -/
theorem ServesHighest.keyTaken {pri' : KeyIx → Nat} {left joined changed : Bool} (hf : ContextOk e c f)
    (hother : ∀ j, j ≠ k → pri' j = pri j) (hsame : changed = false → pri' k = pri k) (h : ServesHighest pri f) :
    ServesHighest pri' (keyTaken pri' e c k left joined changed f) := by
  have hstands (hk : changed = false ∨ k ∉ f.list) : ServesHighest pri' f := h.congr hf fun j hj => by
    by_cases hjk : j = k
    · subst hjk; exact hsame (hk.resolve_right (· hj))
    · exact hother j hjk
  have harrives (hk : changed = false ∨ k ∉ (Machine.keyTaken pri' e c k left joined false f).list) :
      ServesHighest pri' (Machine.keyTaken pri' e c k left joined false f) := by
    rw [keyTaken_list] at hk
    unfold Machine.keyTaken
    cases left with
    | true => exact h.takeRelease hf hother
    | false =>
      cases joined with
      | false => exact hstands (by simpa using hk)
      | true => exact (hstands (hk.imp_right fun hn hm => hn (by simp [hm]))).takeRequest hf
  cases changed with
  | false => exact harrives (.inl rfl)
  | true =>
    rw [keyTaken_changed]
    split
    · exact .of_reconsider
    · next hk => exact harrives (.inr hk)

end Sys2Proof.Machine
end

section
/-! SUPPORT. What a command does to the party table and the request lists: it leaves them, or makes one of five effects. The conditions
on parties and lists, and the change count, are then proved over these effects. -/

namespace Sys2Proof.Machine

/-! ## The part of the state that the conditions are about -/

/-- The states of the delays. -/
def delayStates (s : State) (k : Programme) : DelayState := s.delays[k].state

/-- The party records, the request lists, the priorities of the keys and the states of the delays. -/
structure Table where
  parties : Vector PartyRec 24
  foldBacks : Vector FoldBack 24
  priority : KeyIx → Nat
  delays : Programme → DelayState

/-- That part of a state. -/
def tableOf (s : State) : Table :=
  { parties := s.parties, foldBacks := s.foldBacks, priority := priorityOf s, delays := delayStates s }

variable {s t u : State}

theorem parties_of_table (h : tableOf t = tableOf s) : t.parties = s.parties := congrArg Table.parties h

theorem foldBacks_of_table (h : tableOf t = tableOf s) : t.foldBacks = s.foldBacks := congrArg Table.foldBacks h

theorem priority_of_table (h : tableOf t = tableOf s) : priorityOf t = priorityOf s := congrArg Table.priority h

theorem delayStates_of_table (h : tableOf t = tableOf s) : delayStates t = delayStates s := congrArg Table.delays h

/-- A change of state touches the records and the lists alone. -/
theorem tableOf_changeState (p : PartyIx) (st : PState) (k : Programme) (s : State) :
    tableOf (changeState p st k s) = { tableOf s with
      parties := s.parties.set p (recordAfter s p st k)
      foldBacks := s.foldBacks.set p (foldBackAfter s p s.parties[p].state st) } := by
  unfold tableOf priorityOf delayStates
  rw [changeState_parties, changeState_foldBacks, changeState_keys, changeState_delays]

/-- A delay stored in its state leaves that part. -/
theorem tableOf_setDelay (k : Programme) (d : Delay) (h : d.state = s.delays[k].state) :
    tableOf { s with delays := s.delays.set k d } = tableOf s := by
  have hd (j : Programme) : (s.delays.set k d)[j].state = s.delays[j].state := by rw [set_get]; split <;> simp_all
  unfold tableOf
  congr 1
  funext j
  exact hd j

/-! ## The effects -/

/-- An operation of the Fold-back Arbiter at one context that keeps the conditions on it. -/
def KeepsContext (f : (KeyIx → Nat) → Bool → Bool → FoldBack → FoldBack) : Prop :=
  ∀ pri e c g, ContextOk e c g → ContextOk e c (f pri e c g) ∧ (ServesHighest pri g → ServesHighest pri (f pri e c g))

/-- What a command other than RESET does to the party table and the request lists. -/
inductive TableEffect (s t : State) : Prop where
  /-- They stand. -/
  | stands (h : tableOf t = tableOf s)
  /-- A party changes to another state of its kind, and PARTY is raised (R8). -/
  | moves (p : PartyIx) (st : PState) (k : Programme) (legal : st.legalFor (kindOf p) = true) (other : st ≠ s.parties[p].state)
      (h : tableOf t = tableOf (changeState p st k s)) (raised : ∀ q : PortIx, t.ports[q].flags.getLsbD Event.party.bit = true)
  /-- SET PARTY stores its settings (R29). -/
  | settings (p : PartyIx) (sel : Nat → Bool) (sg rg gr fb tm : Byte) (prog : Programme)
      (h : tableOf t = tableOf (storeParty p (partyStored p s.parties[p] sel sg rg gr fb tm prog).1 s))
  /-- A delay tests the marks of its programme (R129). -/
  | guards (k : Programme) (h : tableOf t = tableOf (delayPeriod k s))
  /-- A key is stored (R105). -/
  | keyStored (k : KeyIx) (new : Key) (h : tableOf t = tableOf (storeKey k new s))
  /-- An arrival reaches one context (R98 to R100). -/
  | arrives (p : PartyIx) (f : (KeyIx → Nat) → Bool → Bool → FoldBack → FoldBack) (keeps : KeepsContext f)
      (h : tableOf t = tableOf (atContext f p s))

/-- A live command has its effect, or none while RESET is asserted. -/
theorem TableEffect.live {e : State} (h : live s e = .next t) (he : TableEffect s e) : TableEffect s t := by
  rw [live_next] at h
  split at h
  · exact h ▸ .stands rfl
  · exact h ▸ he

/-- A command whose effect is an update beside the table. -/
theorem TableEffect.frame {e : State} (h : e = u) (hu : tableOf u = tableOf s) : TableEffect s e := h ▸ .stands hu

/-! ## The commands that move a party -/

/-- A transition goes to another state of the kind. -/
def SoundMove (move : Kind → PState → Option PState) : Prop :=
  ∀ kind st next, move kind st = some next → next.legalFor kind = true ∧ next ≠ st

theorem answerMove_sound : SoundMove answerMove := by
  intro kind st next h; unfold answerMove at h; split at h <;> cases h; exact ⟨rfl, nofun⟩

theorem screenMove_sound : SoundMove screenMove := by
  intro kind st next h; unfold screenMove at h; split at h <;> cases h <;> exact ⟨rfl, nofun⟩

theorem holdMove_sound : SoundMove holdMove := by
  intro kind st next h; unfold holdMove at h; split at h <;> cases h <;> exact ⟨rfl, nofun⟩

theorem readyMove_sound : SoundMove readyMove := by
  intro kind st next h; unfold readyMove at h; split at h <;> cases h <;> exact ⟨rfl, nofun⟩

theorem privateMove_sound : SoundMove privateMove := by
  intro kind st next h; unfold privateMove at h; split at h <;> cases h <;> exact ⟨rfl, nofun⟩

theorem takeMove_sound : SoundMove takeMove := by
  intro kind st next h; unfold takeMove at h; split at h <;> cases h <;> exact ⟨rfl, nofun⟩

theorem dropMove_sound : SoundMove dropMove := by
  intro kind st next h; unfold dropMove at h; split at h <;> cases h <;> exact ⟨rfl, nofun⟩

/-- The checks pass only a transition that the command defines (R15). -/
theorem checkState_move {names limited : Bool} {allows : Role → Programme → Bool} {move : Kind → PState → Option PState}
    {role : Role} {p : PartyIx} {r : PartyRec} {e k : Byte} {st : PState} {prog : Programme}
    (h : checkState names allows limited move role p r e k = .ok (st, prog)) : move (kindOf p) r.state = some st := by
  unfold checkState at h
  repeat' split at h
  all_goals cases h
  assumption

/-- A change of state has PARTY among the flags of every port (R8). -/
theorem changeState_raises (p : PartyIx) (st : PState) (k : Programme) (s : State) (q : PortIx) :
    (changeState p st k s).ports[q].flags.getLsbD Event.party.bit = true := by
  rw [changeState_ports]
  simp [Event.flagOf, Event.bit]

/-- A state command answers over the state itself, or with OK over the change of state that its checks pass (R15, R18). -/
theorem stateCommand_cases (names : Bool) (allows : Role → Programme → Bool) (limited : Bool)
    (move : Kind → PState → Option PState) (q : PortIx) (tag : Byte) (pl : List Byte) (s : State) :
    (∃ r body, stateCommand names allows limited move q tag pl s = reply q tag r body s) ∨
    ∃ p st k body, move (kindOf p) s.parties[p].state = some st ∧
      stateCommand names allows limited move q tag pl s = reply q tag .ok body (changeState p st k s) := by
  unfold stateCommand
  split
  · split
    · exact .inl ⟨_, _, rfl⟩
    · next p _ =>
      split
      · exact .inl ⟨_, _, rfl⟩
      · next st k hc => exact .inr ⟨p, st, k, _, checkState_move hc, rfl⟩
  · exact .inl ⟨_, _, rfl⟩

theorem stateCommand_effect {names limited : Bool} {allows : Role → Programme → Bool} {move : Kind → PState → Option PState}
    (hm : SoundMove move) (q : PortIx) (tag : Byte) (pl : List Byte) (s : State) :
    TableEffect s (stateCommand names allows limited move q tag pl s) := by
  rcases stateCommand_cases names allows limited move q tag pl s with ⟨r, body, h⟩ | ⟨p, st, k, body, hmove, h⟩
  · exact .frame h rfl
  · obtain ⟨legal, other⟩ := hm _ _ _ hmove
    rw [h]
    refine .moves p st k legal other rfl fun j => ?_
    rw [reply_ports]
    split
    · exact changeState_raises p st k s q
    · exact changeState_raises p st k s j

/-- A supervision cause whose new state is one of its kind and none of its from-states (R6). -/
theorem applyCause_effect {kind : Kind} {froms : List PState} {next : PState} (ev : Option Event) (p : PartyIx) (i : Instr)
    (s : State) (legal : next.legalFor kind = true) (other : next ∉ froms) :
    TableEffect s (applyCause kind froms next ev p (took i s)) := by
  unfold applyCause
  split
  · next hg =>
    obtain ⟨rfl, hfrom⟩ := hg
    have hne : next ≠ s.parties[p].state := by rintro rfl; exact other hfrom
    have htable : tableOf (changeState p next s.parties[p].programme (took i s)) =
        tableOf (changeState p next s.parties[p].programme s) := by
      rw [tableOf_changeState, tableOf_changeState]; rfl
    cases ev with
    | none => exact .moves p next _ legal hne htable fun q => changeState_raises _ _ _ _ q
    | some e =>
      refine .moves p next _ legal hne htable fun q => ?_
      rw [raise_ports, BitVec.getLsbD_or, changeState_raises, Bool.true_or]
  · exact .stands rfl

/-! ## The other commands that reach the table -/

theorem setParty_effect (q : PortIx) (tag : Byte) (pl : List Byte) (s : State) : TableEffect s (setParty q tag pl s) := by
  unfold setParty
  split
  · next sg rg gr fb tm pr =>
    split
    · exact .stands rfl
    · next p _ =>
      cases checked _ _ s.parties[p].programme with
      | none => exact .stands rfl
      | some prog =>
        dsimp only
        generalize setPartyAllowed _ _ _ = allowed
        cases allowed
        · exact .stands rfl
        · exact .settings p _ _ _ _ _ _ prog rfl
  · exact .stands rfl

theorem keyCommand_effect (q : PortIx) (tag : Byte) (pl : List Byte) (s : State) : TableEffect s (keyCommand q tag pl s) := by
  unfold keyCommand
  split
  · split
    · split
      · exact .stands rfl
      · split
        · exact .stands rfl
        · exact .keyStored _ _ rfl
    · exact .stands rfl
  · exact .stands rfl

theorem setKey_effect (q : PortIx) (tag : Byte) (pl : List Byte) (s : State) : TableEffect s (setKey q tag pl s) := by
  unfold setKey
  split
  · split
    · exact .stands rfl
    · split
      · split
        · exact .keyStored _ _ rfl
        · exact .stands rfl
      · exact .stands rfl
  · exact .stands rfl

theorem keyTrigger_effect (k : KeyIx) (c : CellIx) (out : Bool) (i : Instr) (s : State) :
    TableEffect s (keyTrigger k c out (took i s)) := by
  unfold keyTrigger
  split
  · exact .keyStored k _ rfl
  · exact .stands rfl

theorem request_keeps (k : KeyIx) : KeepsContext fun pri e c f => takeRequest pri e c k f :=
  fun _ _ _ _ h => ⟨h.takeRequest, fun hs => hs.takeRequest h⟩

theorem release_keeps (k : KeyIx) : KeepsContext fun pri e c f => takeRelease pri e c k f :=
  fun _ _ _ _ h => ⟨h.takeRelease, fun hs => hs.takeRelease h fun _ _ => rfl⟩

theorem reconsideration_keeps (k : KeyIx) : KeepsContext fun pri e c f => if f.list.contains k then reconsider pri e c f else f := by
  intro pri e c f h
  dsimp only
  split
  · exact ⟨h.reconsider, fun _ => .of_reconsider⟩
  · exact ⟨h, id⟩

theorem dumpRequest_state (d : Delay) : (dumpRequest d).1.state = d.state := (congrArg Delay.state (dumpRequest_rest d)).trans rfl

theorem setDelay_table (q : PortIx) (tag : Byte) (pl : List Byte) (s : State) : tableOf (setDelay q tag pl s) = tableOf s := by
  unfold setDelay
  split
  · split
    · rfl
    · split
      · split
        · refine tableOf_setDelay (s := s) _ _ ?_
          rfl
        · rfl
      · rfl
  · rfl

theorem dump_table (q : PortIx) (tag : Byte) (pl : List Byte) (s : State) : tableOf (dump q tag pl s) = tableOf s := by
  unfold dump
  split
  · split
    · rfl
    · split
      · exact tableOf_setDelay (s := s) _ _ (dumpRequest_state _)
      · rfl
  · rfl

theorem setMemorySize_table (q : PortIx) (tag : Byte) (pl : List Byte) (s : State) :
    tableOf (setMemorySize q tag pl s) = tableOf s := by
  unfold setMemorySize
  split
  · split
    · rfl
    · split
      · rfl
      · split
        · rfl
        · have hd (m : MemSize) (k : Programme) : (Vector.ofFn fun k : Programme => lowerTarget m s.delays[k])[k].state =
              s.delays[k].state := by rw [ofFn_get]; rfl
          exact congrArg (fun d => { tableOf s with delays := d }) (funext fun k => hd _ k)
  · rfl

theorem delayTrigger_table (k : Programme) (c : CellIx) (out : Bool) (i : Instr) (s : State) :
    tableOf (delayTrigger k c out (took i s)) = tableOf s := by
  unfold delayTrigger
  dsimp only
  split
  · refine (tableOf_setDelay (s := took i s) k _ ?_).trans rfl
    split
    · exact dumpRequest_state _
    · rfl
  · rfl

theorem writeRead_table (k : Programme) (s : State) : tableOf (writeRead k s) = tableOf s :=
  tableOf_setDelay (s := s) k _ rfl

theorem raiseIf_table (b : Bool) (e : Event) (s : State) : tableOf (raiseIf b e s) = tableOf s := by cases b <;> rfl

theorem evaluateParty_table (p : PartyIx) (s : State) : tableOf (evaluateParty p s) = tableOf s := by
  unfold evaluateParty
  split
  · exact raiseIf_table _ _ _
  · rfl

theorem frameComputation_table (x : FrameIn) (s : State) : tableOf (frameComputation x s) = tableOf s := by
  unfold frameComputation endFrame
  split <;> exact raiseIf_table _ _ _

theorem lcPeriod_table (pins : Vector Bool 8) (s : State) : tableOf (evaluateCells (samplePins pins s)) = tableOf s :=
  raiseIf_table _ _ _

theorem delayPeriod_if_effect (k : Programme) (b : Prop) [Decidable b] (s : State) :
    TableEffect s (if b then delayPeriod k s else s) := by
  split
  · exact .guards k rfl
  · exact .stands rfl

theorem playerPeriod_table (j : PlayerIx) (s : State) : tableOf (playerPeriod j s) = tableOf s :=
  (congrArg tableOf (playerPeriod_changes s j)).trans rfl

theorem meterPeriod_table (s : State) : tableOf (meterPeriod s) = tableOf s :=
  (congrArg tableOf (meterPeriod_changes s)).trans rfl

theorem judge_table (edges : Nat) (s : State) : tableOf (judge edges s) = tableOf s := raiseIf_table _ _ _

/-- An event of a case that does not hold leaves the table as the event itself does. -/
theorem ite_table (b : Prop) [Decidable b] (h : tableOf t = tableOf s) : tableOf (if b then t else s) = tableOf s := by
  split
  · exact h
  · rfl

/-- What any command but RESET does to the party table and the request lists. -/
theorem exec_effect {c : Instr} (hc : c ≠ .reset) (h : exec c s = .next t) : TableEffect s t := by
  cases c with
  | reset => exact absurd rfl hc
  | resetRelease straps => cases h; exact .stands rfl
  | frameAnswer q bytes => exact .live h (.stands rfl)
  | unknownCommand q n tag pl => exact .live h (.stands rfl)
  | nop q tag pl => exact .live h (.stands rfl)
  | readStatus q tag pl => exact .live h (.frame (plainRead_changes q tag pl s _) rfl)
  | readEvents q tag pl => exact .live h (.frame (readEvents_changes q tag pl s) rfl)
  | setEventMask q tag pl => exact .live h (.frame (setEventMask_changes q tag pl s) rfl)
  | readParty q tag pl => exact .live h (.frame (readParty_changes q tag pl s) rfl)
  | readTable q tag pl => exact .live h (.frame (plainRead_changes q tag pl s _) rfl)
  | setParty q tag pl => exact .live h (setParty_effect q tag pl s)
  | answer q tag pl => exact .live h (stateCommand_effect answerMove_sound q tag pl s)
  | screen q tag pl => exact .live h (stateCommand_effect screenMove_sound q tag pl s)
  | hold q tag pl => exact .live h (stateCommand_effect holdMove_sound q tag pl s)
  | ready q tag pl => exact .live h (stateCommand_effect readyMove_sound q tag pl s)
  | privateTalk q tag pl => exact .live h (stateCommand_effect privateMove_sound q tag pl s)
  | take q tag pl => exact .live h (stateCommand_effect takeMove_sound q tag pl s)
  | drop q tag pl => exact .live h (stateCommand_effect dropMove_sound q tag pl s)
  | setSend q tag pl => exact .live h (.frame (setSend_changes q tag pl s) rfl)
  | setMonitor q tag pl => exact .live h (.frame (setMonitor_changes q tag pl s) rfl)
  | key q tag pl => exact .live h (keyCommand_effect q tag pl s)
  | setKey q tag pl => exact .live h (setKey_effect q tag pl s)
  | readKeys q tag pl => exact .live h (.frame (plainRead_changes q tag pl s _) rfl)
  | request k p => exact .live h (.arrives p _ (request_keeps k) rfl)
  | release k p => exact .live h (.arrives p _ (release_keeps k) rfl)
  | reconsideration k p => exact .live h (.arrives p _ (reconsideration_keeps k) rfl)
  | keyTrigger k c out => exact .live h (keyTrigger_effect k c out _ s)
  | writeSteps q tag pl => exact .live h (.frame (writeSteps_changes q tag pl s) rfl)
  | writePitches q tag pl => exact .live h (.frame (writePitches_changes q tag pl s) rfl)
  | readToneMemory q tag pl => exact .live h (.frame (readToneMemory_changes q tag pl s) rfl)
  | setPlayer q tag pl => exact .live h (.frame (setPlayer_changes q tag pl s) rfl)
  | start q tag pl => exact .live h (.frame (playerCommand_changes q tag pl s _) rfl)
  | stop q tag pl => exact .live h (.frame (playerCommand_changes q tag pl s _) rfl)
  | abort q tag pl => exact .live h (.frame (playerCommand_changes q tag pl s _) rfl)
  | setToneRoute q tag pl => exact .live h (.frame (setToneRoute_changes q tag pl s) rfl)
  | readPlayers q tag pl => exact .live h (.frame (plainRead_changes q tag pl s _) rfl)
  | playerTrigger j c out => exact .live h (.stands (by unfold playerTrigger; split <;> rfl))
  | setDelay q tag pl => exact .live h (.stands (setDelay_table q tag pl s))
  | dump q tag pl => exact .live h (.stands (dump_table q tag pl s))
  | readDelay q tag pl => exact .live h (.frame (plainRead_changes q tag pl s _) rfl)
  | setMemorySize q tag pl => exact .live h (.stands (setMemorySize_table q tag pl s))
  | delayTrigger k c out => exact .live h (.stands (delayTrigger_table k c out _ s))
  | setMetering q tag pl => exact .live h (.frame (setMetering_changes q tag pl s) rfl)
  | readMeters q tag pl => exact .live h (.frame (plainRead_changes q tag pl s _) rfl)
  | setSupervisor q tag pl => exact .live h (.frame (setSupervisor_changes q tag pl s) rfl)
  | readSupervisors q tag pl => exact .live h (.frame (plainRead_changes q tag pl s _) rfl)
  | clearClips q tag pl => exact .live h (.frame (clearClips_changes q tag pl s) rfl)
  | setCell q tag pl => exact .live h (.frame (setCell_changes q tag pl s) rfl)
  | setGpo q tag pl => exact .live h (.frame (setGpo_changes q tag pl s) rfl)
  | readLogic q tag pl => exact .live h (.frame (plainRead_changes q tag pl s _) rfl)
  | setLineTiming q tag pl => exact .live h (.frame (setLineTiming_changes q tag pl s) rfl)
  | setClock q tag pl => exact .live h (.frame (setClock_changes q tag pl s) rfl)
  | supervisionSample aux => exact .live h (.stands rfl)
  | partyEvaluation p => exact .live h (.stands (evaluateParty_table p s))
  | ring p => exact .live h (applyCause_effect _ p _ s rfl (by decide))
  | ringAbandon p => exact .live h (applyCause_effect _ p _ s rfl (by decide))
  | answerFailure p => exact .live h (applyCause_effect _ p _ s rfl (by decide))
  | loopDrop p => exact .live h (applyCause_effect _ p _ s rfl (by decide))
  | clearingComplete p => exact .live h (applyCause_effect _ p _ s rfl (by decide))
  | linkUp p => exact .live h (applyCause_effect _ p _ s rfl (by decide))
  | linkDown p => exact .live h (applyCause_effect _ p _ s rfl (by decide))
  | mePeriodStart => exact .live h (.stands rfl)
  | frameComputation x => exact .live h (.stands (frameComputation_table x s))
  | delayWriteRead k => exact .live h (.stands (writeRead_table k s))
  | delayPeriodStart k => exact .live h (.guards k rfl)
  | dumpJump k => exact .live h (delayPeriod_if_effect k _ s)
  | playerPeriodStart j => exact .live h (.stands (playerPeriod_table j s))
  | stepComplete j => exact .live h (.stands (ite_table _ (playerPeriod_table j s)))
  | abortFadeEnd j => exact .live h (.stands (ite_table _ (playerPeriod_table j s)))
  | meterPeriodStart => exact .live h (.stands (meterPeriod_table s))
  | measurementComplete => exact .live h (.stands (ite_table _ (meterPeriod_table s)))
  | waitingEnd => exact .live h (.stands (ite_table _ (meterPeriod_table s)))
  | lcPeriodEnd pins => exact .live h (.stands (lcPeriod_table pins s))
  | gpoDelivery g c out => exact .live h (.stands (by unfold gpoDelivery; split <;> rfl))
  | judgement edges => exact .live h (.stands (judge_table edges s))
  | realign edges => exact .live h (.stands (ite_table _ (judge_table edges s)))

end Sys2Proof.Machine
end

section
/-! SUPPORT. The conditions on parties and lists and the change count, over the effects of the commands; and the two statements on
every command. -/

namespace Sys2Proof.Machine

variable {s t : State}

/-! ## The condition on one record -/

/-- The conditions of PartiesOk on one record, with the states of the delays and the kind of the party. -/
structure RecordOk (delays : Programme → DelayState) (kind : Kind) (r : PartyRec) : Prop where
  legal : r.state.legalFor kind = true
  gains : gainOk r.sourceGain ∧ gainOk r.returnGain
  mark : r.echoMark.isSome = true → r.state.waiting = true ∧ delays r.programme ≠ .bypass

/-- PartiesOk is the condition on every record. -/
theorem partiesOk_iff (s : State) : PartiesOk s ↔ ∀ p : PartyIx, RecordOk (delayStates s) (kindOf p) s.parties[p] :=
  ⟨fun h p => ⟨h.legal p, h.gains p, h.mark p⟩,
    fun h => ⟨fun p => (h p).legal, fun p => (h p).gains, fun p => (h p).mark⟩⟩

/-! ## A change of state against the conditions (R8) -/

/-- A mark held after a change of state stands in HOLD or READY, with the delay of the programme not in BYPASS (R12, R13). -/
theorem markAfter_ok {old : PartyRec} {kind : Kind} (hs : RecordOk (delayStates s) kind old) (p : PartyIx) (st : PState)
    (k : Programme) (h : (markAfter s p old st k).isSome = true) : st.waiting = true ∧ delayStates s k ≠ .bypass := by
  by_cases hrec : kindOf p = .phone ∧ old.state = .air ∧ st = .hold ∧ s.delays[k].state.on = true
  · obtain ⟨-, -, rfl, hon⟩ := hrec
    exact ⟨rfl, (delay_on _).1 hon⟩
  · rw [markAfter_kept p st k s _ hrec] at h
    split at h
    · cases h
    · next hkeep =>
      obtain ⟨hwait, hdelay⟩ := hs.mark h
      obtain ⟨hst, rfl⟩ : st.waiting = true ∧ k = old.programme := by
        by_contra hc; exact hkeep (.inl ⟨hwait, hc⟩)
      exact ⟨hst, hdelay⟩

theorem PartiesOk.changeState (hs : PartiesOk s) (p : PartyIx) (st : PState) (k : Programme)
    (legal : st.legalFor (kindOf p) = true) : PartiesOk (changeState p st k s) := by
  rw [partiesOk_iff] at hs ⊢
  have hd : delayStates (Machine.changeState p st k s) = delayStates s := by
    funext j; simp only [delayStates, changeState_delays]
  intro j
  rw [hd, changeState_party]
  split
  · next h => subst h; exact ⟨legal, (hs j).gains, markAfter_ok (hs j) j st k⟩
  · exact hs j

/-- The context of a party after a change of its state meets the conditions (R10, R102, R103). -/
theorem foldBackAfter_ok (p : PartyIx) (st : PState)
    (h : ContextOk s.parties[p].foldBack s.parties[p].state.connected s.foldBacks[p]) :
    ContextOk s.parties[p].foldBack st.connected (foldBackAfter s p s.parties[p].state st) := by
  cases ho : s.parties[p].state.connected <;> cases hn : st.connected
  · rw [foldBackAfter_same p s (ho.trans hn.symm), ← ho]; exact h
  · rw [foldBackAfter_connection p s ho hn]
    refine ContextOk.serve (.idle ((List.nodup_finRange 4).filter _) ?_)
    simp
  · rw [foldBackAfter_teardown p s ho hn]
    exact .idle List.nodup_nil fun _ => rfl
  · rw [foldBackAfter_same p s (ho.trans hn.symm), ← ho]; exact h

theorem FoldBacksOk.changeState (hs : FoldBacksOk s) (p : PartyIx) (st : PState) (k : Programme) :
    FoldBacksOk (changeState p st k s) := by
  rw [foldBacksOk_iff] at hs ⊢
  intro j
  rw [changeState_party, changeState_foldBack]
  by_cases h : j = p
  · subst h
    simp only [if_pos]
    exact foldBackAfter_ok j st (hs j)
  · simp only [if_neg h]
    exact hs j

/-- The law of R97 is kept where a connection serves, and is empty without a service. -/
theorem foldBackAfter_servesHighest (p : PartyIx) (old new : PState) (h : ServesHighest (priorityOf s) s.foldBacks[p]) :
    ServesHighest (priorityOf s) (foldBackAfter s p old new) := by
  unfold foldBackAfter
  split
  · exact ServesHighest.serve (.idle rfl)
  · split
    · exact .idle rfl
    · exact h

theorem ServicesOk.changeState (hs : ServicesOk s) (p : PartyIx) (st : PState) (k : Programme) :
    ServicesOk (changeState p st k s) := by
  have hpri : priorityOf (Machine.changeState p st k s) = priorityOf s := by
    funext j; simp only [priorityOf, changeState_keys]
  intro j
  rw [hpri, changeState_foldBack]
  split
  · exact foldBackAfter_servesHighest p _ _ (hs p)
  · exact hs j

/-! ## SET PARTY against the conditions (R29, R101) -/

/-- The gains SET PARTY stores are gain codes (R51). -/
theorem store_gainOk (sel : Bool) (b held : Byte) (h : gainOk held) : gainOk (store sel (gainStored b) held).1 := by
  rw [store_gain]
  unfold gainOk
  split
  · split
    · exact .inl ‹_›
    · exact .inr rfl
  · exact h

/-- SET PARTY keeps the state, the gain codes in range, and the mark with the programme (R29, R51). -/
theorem partyStored_ok {d : Programme → DelayState} {kind : Kind} {r : PartyRec} (h : RecordOk d kind r) (p : PartyIx)
    (sel : Nat → Bool) (sg rg gr fb tm : Byte) (prog : Programme) :
    RecordOk d kind (partyStored p r sel sg rg gr fb tm prog).1 where
  legal := h.legal
  gains := ⟨store_gainOk _ _ _ h.gains.1, store_gainOk _ _ _ h.gains.2⟩
  mark hm := by
    unfold partyStored at hm ⊢
    dsimp only at hm ⊢
    split at hm
    · next hk => rw [hk]; exact h.mark hm
    · cases hm

/-- The table after SET PARTY has stored a record. -/
theorem tableOf_storeParty (p : PartyIx) (r : PartyRec) (s : State) :
    tableOf (storeParty p r s) = { tableOf s with
      parties := s.parties.set p r, foldBacks := s.foldBacks.set p (foldBackEnabled s p r.foldBack) } := raiseIf_table _ _ _

theorem storeParty_party (p : PartyIx) (r : PartyRec) (s : State) (j : PartyIx) :
    (storeParty p r s).parties[j] = if j = p then r else s.parties[j] := by
  have h : (storeParty p r s).parties = s.parties.set p r := congrArg Table.parties (tableOf_storeParty p r s)
  rw [h, set_get]

theorem storeParty_foldBack (p : PartyIx) (r : PartyRec) (s : State) (j : PartyIx) :
    (storeParty p r s).foldBacks[j] = if j = p then foldBackEnabled s p r.foldBack else s.foldBacks[j] := by
  have h : (storeParty p r s).foldBacks = s.foldBacks.set p (foldBackEnabled s p r.foldBack) :=
    congrArg Table.foldBacks (tableOf_storeParty p r s)
  rw [h, set_get]

/-- The context of a party whose fold-back enable takes a value meets the conditions (R101). -/
theorem foldBackEnabled_ok (p : PartyIx) (on : Bool)
    (h : ContextOk s.parties[p].foldBack s.parties[p].state.connected s.foldBacks[p]) :
    ContextOk on s.parties[p].state.connected (foldBackEnabled s p on) := by
  unfold foldBackEnabled
  split
  · next hon => rw [hon]; exact h
  · cases on with
    | true => exact ContextOk.serve { h with enabled := fun _ => rfl }
    | false => exact h.end

theorem foldBackEnabled_servesHighest (p : PartyIx) (on : Bool) (h : ServesHighest (priorityOf s) s.foldBacks[p]) :
    ServesHighest (priorityOf s) (foldBackEnabled s p on) := by
  unfold foldBackEnabled
  split
  · exact h
  · split
    · exact h.serve
    · exact .idle rfl

theorem PartiesOk.storeParty (hs : PartiesOk s) (p : PartyIx) {r : PartyRec} (hr : RecordOk (delayStates s) (kindOf p) r) :
    PartiesOk (storeParty p r s) := by
  rw [partiesOk_iff] at hs ⊢
  have hd : delayStates (Machine.storeParty p r s) = delayStates s := by funext j; simp only [delayStates, storeParty_delays]
  intro j
  rw [hd, storeParty_party]
  split
  · next h => subst h; exact hr
  · exact hs j

theorem FoldBacksOk.storeParty (hs : FoldBacksOk s) (p : PartyIx) {r : PartyRec} (hr : r.state = s.parties[p].state) :
    FoldBacksOk (storeParty p r s) := by
  rw [foldBacksOk_iff] at hs ⊢
  intro j
  rw [storeParty_party, storeParty_foldBack]
  by_cases h : j = p
  · subst h
    simp only [if_pos, hr]
    exact foldBackEnabled_ok j _ (hs j)
  · simp only [if_neg h]
    exact hs j

theorem ServicesOk.storeParty (hs : ServicesOk s) (p : PartyIx) (r : PartyRec) : ServicesOk (storeParty p r s) := by
  have hpri : priorityOf (Machine.storeParty p r s) = priorityOf s := congrArg Table.priority (tableOf_storeParty p r s)
  intro j
  rw [hpri, storeParty_foldBack]
  split
  · exact foldBackEnabled_servesHighest p _ (hs p)
  · exact hs j

/-! ## The guard tests against the conditions (R129) -/

/-- The records after the period start of a delay: each tested against the delay as it then is. -/
theorem delayPeriod_party (k : Programme) (s : State) (j : PartyIx) :
    (delayPeriod k s).parties[j] =
      guardTested { s with delays := s.delays.set k (periodDelay s.delays[k]), memInUse := s.memSize } k s.parties[j] := by
  have h := congrArg Table.parties (raiseIf_table ((periodDelay s.delays[k]).state != s.delays[k].state) .delay
    (testGuards k { s with delays := s.delays.set k (periodDelay s.delays[k]), memInUse := s.memSize }))
  change (delayPeriod k s).parties = _ at h
  rw [h]
  exact ofFn_get _ _

/-- A test of a mark touches the mark alone, and keeps it or removes it. -/
theorem guardTested_rest (k : Programme) (r : PartyRec) :
    guardTested s k r = r ∨ guardTested s k r = { r with echoMark := none } := by
  unfold guardTested
  split
  · split
    · exact .inr rfl
    · exact .inl rfl
  · exact .inl rfl

/-- A mark that passes the test of its own delay finds it not in BYPASS (R129). -/
theorem guardTested_on (k : Programme) (r : PartyRec) (hk : r.programme = k) (h : (guardTested s k r).echoMark.isSome = true) :
    delayStates s k ≠ .bypass := by
  unfold guardTested at h
  split at h
  · next m _ =>
    split at h
    · cases h
    · next hg =>
      have hpass : r.state.waiting = true ∧ guardHolds s.memSize s.delays[k] m = true := by
        by_contra hc; exact hg ⟨hk, hc⟩
      exact (delay_on _).1 (Bool.and_eq_true_iff.1 hpass.2).1
  · next hn => rw [hn] at h; cases h

theorem RecordOk.guardTested {d : Programme → DelayState} {kind : Kind} {r : PartyRec} (h : RecordOk d kind r) (k : Programme)
    (hd : ∀ j, j ≠ k → delayStates s j = d j) : RecordOk (delayStates s) kind (guardTested s k r) := by
  have hon := guardTested_on (s := s) k r
  rcases guardTested_rest (s := s) k r with hr | hr
  · rw [hr] at hon ⊢
    refine ⟨h.legal, h.gains, fun hm => ⟨(h.mark hm).1, ?_⟩⟩
    by_cases hk : r.programme = k
    · rw [hk]; exact hon hk hm
    · rw [hd _ hk]; exact (h.mark hm).2
  · rw [hr]
    exact ⟨h.legal, h.gains, nofun⟩

theorem PartiesOk.delayPeriod (hs : PartiesOk s) (k : Programme) : PartiesOk (delayPeriod k s) := by
  rw [partiesOk_iff] at hs ⊢
  have hd : delayStates (Machine.delayPeriod k s) =
      delayStates { s with delays := s.delays.set k (periodDelay s.delays[k]), memInUse := s.memSize } := by
    funext j; exact congrFun (congrArg Table.delays (raiseIf_table _ _ _)) j
  intro j
  rw [hd, delayPeriod_party]
  refine (hs j).guardTested k fun i hi => ?_
  simp only [delayStates, set_get_other _ _ _ _ hi]

/-- A guard test leaves the state and the fold-back enable of a party. -/
theorem delayPeriod_keeps (k : Programme) (s : State) (j : PartyIx) :
    (delayPeriod k s).parties[j].state = s.parties[j].state ∧ (delayPeriod k s).parties[j].changes = s.parties[j].changes ∧
      (delayPeriod k s).parties[j].foldBack = s.parties[j].foldBack := by
  rw [delayPeriod_party]
  rcases guardTested_rest k s.parties[j] with h | h <;> rw [h] <;> exact ⟨rfl, rfl, rfl⟩

theorem FoldBacksOk.delayPeriod (hs : FoldBacksOk s) (k : Programme) : FoldBacksOk (delayPeriod k s) := by
  rw [foldBacksOk_iff] at hs ⊢
  intro j
  obtain ⟨hst, -, hfb⟩ := delayPeriod_keeps k s j
  rw [hst, hfb, delayPeriod_foldBacks]
  exact hs j

theorem ServicesOk.delayPeriod (hs : ServicesOk s) (k : Programme) : ServicesOk (delayPeriod k s) := by
  have hpri : priorityOf (Machine.delayPeriod k s) = priorityOf s := by funext j; simp only [priorityOf, delayPeriod_keys]
  intro j
  rw [hpri, delayPeriod_foldBacks]
  exact hs j

/-! ## Keys and arrivals against the conditions (R98 to R100, R105) -/

theorem FoldBacksOk.storeKey (hs : FoldBacksOk s) (k : KeyIx) (new : Key) : FoldBacksOk (storeKey k new s) := by
  rw [foldBacksOk_iff] at hs ⊢
  intro p
  rw [storeKey_foldBacks, storeKey_parties]
  exact (hs p).keyTaken

/-- The priorities as stored after one key is stored. -/
theorem priorityOf_setKey (k : KeyIx) (new : Key) (s : State) (j : KeyIx) :
    priorityOf { s with keys := s.keys.set k new } j = if j = k then new.priority.val else priorityOf s j := by
  have h := congrArg (fun x : Key => x.priority.val) (set_get s.keys k j new)
  exact h.trans (apply_ite (fun x : Key => x.priority.val) _ _ _)

theorem ServicesOk.storeKey (hf : FoldBacksOk s) (hs : ServicesOk s) (k : KeyIx) (new : Key) :
    ServicesOk (storeKey k new s) := by
  rw [foldBacksOk_iff] at hf
  have hpri : priorityOf (Machine.storeKey k new s) = priorityOf { s with keys := s.keys.set k new } := by unfold priorityOf; rfl
  intro p
  rw [storeKey_foldBacks, hpri, foldBackStored]
  refine (hs p).keyTaken (hf p) (fun j hj => ?_) fun hsame => ?_
  · rw [priorityOf_setKey, if_neg hj]
  · rw [priorityOf_setKey, if_pos rfl, bne_eq_false_iff_eq.1 hsame, priorityOf]

theorem FoldBacksOk.atContext (hs : FoldBacksOk s) {f : (KeyIx → Nat) → Bool → Bool → FoldBack → FoldBack}
    (keeps : KeepsContext f) (p : PartyIx) : FoldBacksOk (atContext f p s) := by
  rw [foldBacksOk_iff] at hs ⊢
  intro j
  unfold Machine.atContext
  dsimp only
  rw [set_get]
  split
  · next h => subst h; exact (keeps _ _ _ _ (hs j)).1
  · exact hs j

theorem ServicesOk.atContext (hf : FoldBacksOk s) (hs : ServicesOk s)
    {f : (KeyIx → Nat) → Bool → Bool → FoldBack → FoldBack} (keeps : KeepsContext f) (p : PartyIx) :
    ServicesOk (atContext f p s) := by
  rw [foldBacksOk_iff] at hf
  intro j
  unfold Machine.atContext
  dsimp only
  rw [set_get]
  split
  · exact (keeps _ _ _ _ (hf p)).2 (hs p)
  · exact hs j

/-! ## Every command -/

/-- The conditions of the parties and their lists, together. -/
structure TableOk (s : State) : Prop where
  parties : PartiesOk s
  lists : FoldBacksOk s

/-- A command has kept the conditions on parties and lists, and the law of R97. -/
structure TableKept (s t : State) : Prop where
  ok : TableOk t
  services : ServicesOk s → ServicesOk t

/-- The conditions read the table alone. -/
theorem TableKept.of_table {u : State} (h : tableOf t = tableOf u) (hu : TableKept s u) : TableKept s t where
  ok := by
    refine ⟨?_, ?_⟩
    · rw [partiesOk_iff, parties_of_table h, delayStates_of_table h]
      exact (partiesOk_iff u).1 hu.ok.parties
    · rw [foldBacksOk_iff, parties_of_table h, foldBacks_of_table h]
      exact (foldBacksOk_iff u).1 hu.ok.lists
  services hs := by
    unfold ServicesOk
    rw [foldBacks_of_table h, priority_of_table h]
    exact hu.services hs

/-- Every effect of a command keeps the conditions on parties and lists. -/
theorem TableEffect.keeps (hs : TableOk s) (he : TableEffect s t) : TableKept s t := by
  obtain ⟨hp, hl⟩ := hs
  cases he with
  | stands h => exact .of_table h ⟨⟨hp, hl⟩, id⟩
  | moves p st k legal _ h _ =>
    exact .of_table h ⟨⟨hp.changeState p st k legal, hl.changeState p st k⟩, fun hv => hv.changeState p st k⟩
  | settings p sel sg rg gr fb tm prog h =>
    refine .of_table h ⟨⟨hp.storeParty p ?_, hl.storeParty p rfl⟩, fun hv => hv.storeParty p _⟩
    exact partyStored_ok ((partiesOk_iff s).1 hp p) ..
  | guards k h => exact .of_table h ⟨⟨hp.delayPeriod k, hl.delayPeriod k⟩, fun hv => hv.delayPeriod k⟩
  | keyStored k new h =>
    refine .of_table h ⟨⟨?_, hl.storeKey k new⟩, fun hv => hv.storeKey hl k new⟩
    exact ⟨hp.legal, hp.gains, hp.mark⟩
  | arrives p f keeps h =>
    refine .of_table h ⟨⟨?_, hl.atContext keeps p⟩, fun hv => hv.atContext hl keeps p⟩
    exact ⟨hp.legal, hp.gains, hp.mark⟩

/-! ## The change count (R3, R8) -/

/-- Every effect but a move keeps the state and the count of every party; a move counts, and raises PARTY. -/
theorem TableEffect.counts (he : TableEffect s t) (p : PartyIx) :
    (t.parties[p].state = s.parties[p].state ∧ t.parties[p].changes = s.parties[p].changes) ∨
    (t.parties[p].state ≠ s.parties[p].state ∧ t.parties[p].changes = s.parties[p].changes + 1 ∧
      ∀ q : PortIx, t.ports[q].flags.getLsbD Event.party.bit = true) := by
  cases he with
  | stands h => rw [parties_of_table h]; exact .inl ⟨rfl, rfl⟩
  | moves j st k _ other h raised =>
    rw [parties_of_table h, changeState_party]
    by_cases hj : p = j
    · subst hj
      rw [if_pos rfl]
      exact .inr ⟨other, rfl, raised⟩
    · rw [if_neg hj]; exact .inl ⟨rfl, rfl⟩
  | settings j sel sg rg gr fb tm prog h =>
    rw [parties_of_table h, storeParty_party]
    by_cases hj : p = j
    · subst hj; rw [if_pos rfl]; exact .inl ⟨rfl, rfl⟩
    · rw [if_neg hj]; exact .inl ⟨rfl, rfl⟩
  | guards k h =>
    rw [parties_of_table h]
    obtain ⟨hst, hch, -⟩ := delayPeriod_keeps k s p
    exact .inl ⟨hst, hch⟩
  | keyStored k new h => rw [parties_of_table h]; exact .inl ⟨rfl, rfl⟩
  | arrives j f _ h => rw [parties_of_table h]; exact .inl ⟨rfl, rfl⟩

/-! ## The state after RESET (R2, R96) -/

theorem reset_partiesOk : PartiesOk State.reset := by
  rw [partiesOk_iff]
  intro p
  have hp : State.reset.parties[p] = PartyRec.atReset p := ofFn_get _ _
  rw [hp]
  refine ⟨?_, ⟨.inl (by decide : (12 : Byte).toNat ≤ 192), .inl (by decide : (12 : Byte).toNat ≤ 192)⟩, nofun⟩
  unfold PartyRec.atReset kindOf
  split <;> rfl

theorem reset_foldBack (p : PartyIx) : State.reset.foldBacks[p] = FoldBack.atReset := by simp [State.reset]

theorem reset_foldBacksOk : FoldBacksOk State.reset := by
  rw [foldBacksOk_iff]
  intro p
  rw [reset_foldBack]
  exact .idle List.nodup_nil fun _ => rfl

theorem reset_servicesOk : ServicesOk State.reset := fun p => by rw [reset_foldBack]; exact .idle rfl

/-- RESET brings the conditions about, and every other command keeps them. -/
theorem exec_keeps_table {c : Instr} (hs : TableOk s) (h : exec c s = .next t) : TableKept s t := by
  by_cases hc : c = .reset
  · subst hc
    cases h
    exact .of_table (u := State.reset) rfl ⟨⟨reset_partiesOk, reset_foldBacksOk⟩, fun _ => reset_servicesOk⟩
  · exact (exec_effect hc h).keeps hs

/-! ## The statements on every command -/

/-- Settles O20, over the effects a command can have on the party table. -/
theorem changeCountFollowsTheState : Obligations.ChangeCountFollowsTheState := by
  unfold Obligations.ChangeCountFollowsTheState
  intro c s t hc h p
  exact (exec_effect hc h).counts p

/-- Settles O55: a step that runs a command has one of the effects, each of which keeps the conditions. -/
theorem stepsKeepThePartiesAndTheirLists : Obligations.StepsKeepThePartiesAndTheirLists := by
  unfold Obligations.StepsKeepThePartiesAndTheirLists
  intro s t hp hl h
  rcases step_next h with rfl | ⟨c, rest, -, hc⟩
  · exact ⟨hp, hl, id⟩
  · have hs : TableOk { s with pending := rest } := ⟨⟨hp.legal, hp.gains, hp.mark⟩, ⟨hl.once, hl.served, hl.connected, hl.enabled⟩⟩
    obtain ⟨⟨hp', hl'⟩, hv⟩ := exec_keeps_table hs hc
    exact ⟨hp', hl', hv⟩

end Sys2Proof.Machine
end

section
/-! SUPPORT. The supervision causes at PT (R6 to R8): what a cause that is applied does, in the terms of the change of state it makes;
and the state after RESET. -/

namespace Sys2Proof.Machine

variable {p : PartyIx} {s t : State}

/-! ## What concerns one party -/

/-- New ports leave what concerns the other parties. -/
theorem OnlyParty.withPorts (h : OnlyParty p s t) (x : Vector Port 3) : OnlyParty p s { t with ports := x } where
  rest := (congrArg (fun u : State => { u with ports := x }) h.rest).trans rfl
  parties := h.parties
  foldBacks := h.foldBacks
  lines := h.lines
  samples := h.samples

/-- An arrival taken out of the record of arrivals handed leaves what concerns the other parties. -/
theorem OnlyParty.of_took {i : Instr} (h : OnlyParty p (took i s) t) : OnlyParty p s t where
  rest := h.rest
  parties := h.parties
  foldBacks := h.foldBacks
  lines := h.lines
  samples := h.samples

theorem Raised.of_took {b : BitVec 11} {i : Instr} (h : Raised b (took i s) t) : Raised b s t :=
  ⟨h.slot, h.flags, h.mask, h.role⟩

/-! ## A cause that is applied -/

variable {kind : Kind} {froms : List PState} {next : PState} {ev : Option Event}

/-- A cause that is applied is a change of state, with the event of the cause raised on the ports beside PARTY. -/
theorem applyCause_applied (h : kindOf p = kind ∧ s.parties[p].state ∈ froms) :
    applyCause kind froms next ev p s =
      { changeState p next s.parties[p].programme s with ports := (applyCause kind froms next ev p s).ports } := by
  unfold applyCause
  rw [if_pos h]
  cases ev <;> rfl

/-- A cause in another state is discarded (R7). -/
theorem applyCause_discarded (h : ¬ (kindOf p = kind ∧ s.parties[p].state ∈ froms)) : applyCause kind froms next ev p s = s := by
  unfold applyCause; rw [if_neg h]

/-- The flags a cause raises where it is applied (R8). -/
def causeFlags (ev : Option Event) : BitVec 11 := (ev.map Event.flagOf).elim Event.party.flagOf (Event.party.flagOf ||| ·)

theorem applyCause_raised (h : kindOf p = kind ∧ s.parties[p].state ∈ froms) :
    Raised (causeFlags ev) s (applyCause kind froms next ev p s) := by
  refine raised_of_ports fun j => ?_
  rw [applyCause_ports, if_pos h]
  cases ev with
  | none => simp [causeFlags]
  | some e => rfl

/-- The mark after a cause: removed at a teardown, and otherwise as it stood (R13). -/
theorem markAfter_cause (old : PartyRec) (hwait : next.waiting = false)
    (hdown : old.state.connected = true → next.connected = false) :
    markAfter s p old next old.programme = if old.state.connected then none else old.echoMark := by
  have hhold : next ≠ .hold := by rintro rfl; cases hwait
  rw [markAfter_kept _ _ _ _ _ fun h => hhold h.2.2.1]
  cases hc : old.state.connected with
  | true => simp [hdown hc]
  | false =>
    have : old.state.waiting = false := by revert hc; cases old.state <;> simp [PState.connected, PState.waiting]
    simp [this]

/-- The counts of a line after a cause, as R43 gives them for the four moves of a phone. -/
def countsAfter (old next : PState) (c : LineCtx) : LineCtx :=
  if next = .ringing then { c with ringCount := 0, answerCount := 0, dropCount := 0, clearingCount := 0 }
  else if next = .clearing then { c with loopSeen := false, answerCount := 0, dropCount := 0, clearingCount := 0 }
  else if old = .ringing then { c with ringCount := 0 }
  else { c with clearingCount := 0 }

/-- PT answers a cause as R6 to R8 give: applied from its from-states, discarded elsewhere, and taken out of the record of
arrivals handed either way. -/
def CauseAnswered (i : Instr) (phone : Bool) (froms : List PState) (next : PState) (flags : BitVec 11) (s : State)
    (p : PartyIx) : Prop :=
  if decide (p.val < 16) = phone ∧ s.parties[p].state ∈ froms then
    ∃ t, exec i s = .next t ∧ OnlyParty p s t ∧ t.handed = s.handed.erase i ∧
      t.parties[p] = { s.parties[p] with
        state := next, changes := s.parties[p].changes + 1
        echoMark := if s.parties[p].state.connected then none else s.parties[p].echoMark } ∧
      (next = .clearing ∨ next = .offline → t.foldBacks[p] = { list := [], inService := none }) ∧
      (next = .ringing ∨ next = .idle → t.foldBacks[p] = s.foldBacks[p]) ∧
      (next = .standby →
        t.foldBacks[p].list = (List.finRange 4).filter (fun j => s.keys[j].active && s.keys[j].dest[p]) ∧
        (∀ j, t.foldBacks[p].inService = some j → Selected (priorityOf s) t.foldBacks[p].list j) ∧
        (t.foldBacks[p].inService = none ↔ t.foldBacks[p].list = [] ∨ s.parties[p].foldBack = false)) ∧
      (∀ n : LineIx, n.val = p.val → t.lines[n] = countsAfter s.parties[p].state next s.lines[n]) ∧
      Raised flags s t
  else exec i s = .next { s with handed := s.handed.erase i }

/-- The list and the service of a party that connects (R102). -/
theorem foldBackAfter_connects {old : PState} (ho : old.connected = false) (hn : next.connected = true) :
    (foldBackAfter s p old next).list = (List.finRange 4).filter (fun j => s.keys[j].active && s.keys[j].dest[p]) ∧
      (∀ j, (foldBackAfter s p old next).inService = some j → Selected (priorityOf s) (foldBackAfter s p old next).list j) ∧
      ((foldBackAfter s p old next).inService = none ↔
        (foldBackAfter s p old next).list = [] ∨ s.parties[p].foldBack = false) := by
  rw [foldBackAfter_connection p s ho hn]
  obtain ⟨hsel, hnone⟩ := serve_fresh (priorityOf s) s.parties[p].foldBack true
    { list := connectingKeys s p, inService := none } rfl
  refine ⟨serve_list .., ?_, ?_⟩
  · rw [serve_list]; exact hsel
  · rw [hnone, serve_list]; simp

/-- A cause whose from-states are connected exactly at a teardown is answered by its change of state. -/
theorem causeAnswered {i : Instr} {phone : Bool} (hr : s.inReset = false)
    (hexec : exec i s = live s (applyCause kind froms next ev p (took i s)))
    (hkind : kindOf p = kind ↔ decide (p.val < 16) = phone)
    (hconn : ∀ o ∈ froms, o.connected = true ↔ next = .clearing ∨ next = .offline)
    (hnext : next.waiting = false ∧ (next.connected = true ↔ next = .standby))
    (hline : phone = true → ∀ o ∈ froms, ∀ c, lineChange o next c = countsAfter o next c) :
    CauseAnswered i phone froms next (causeFlags ev) s p := by
  obtain ⟨hwait, hstandby⟩ := hnext
  rw [live_of_released _ hr] at hexec
  unfold CauseAnswered
  split
  · next hphone =>
    have h : kindOf p = kind ∧ s.parties[p].state ∈ froms := hphone.imp_left hkind.2
    have happ : kindOf p = kind ∧ (took i s).parties[p].state ∈ froms := h
    have ht := applyCause_applied (next := next) (ev := ev) happ
    have hdown (ho : s.parties[p].state.connected = true) : next.connected = false := by
      rcases (hconn _ h.2).1 ho with rfl | rfl <;> rfl
    have hlist : (applyCause kind froms next ev p (took i s)).foldBacks[p] =
        foldBackAfter s p s.parties[p].state next := by
      rw [ht]; exact changeState_foldBack_self ..
    refine ⟨_, hexec, ?_, ?_, ?_, fun hn => ?_, fun hn => ?_, fun hn => ?_, fun n hn => ?_, (applyCause_raised happ).of_took⟩
    · rw [ht]; exact ((changeState_onlyParty p next _ _).withPorts _).of_took
    · rw [ht]; exact changeState_handed ..
    · rw [ht, ← markAfter_cause _ hwait hdown]
      exact changeState_party_self ..
    · have ho := (hconn _ h.2).2 hn
      rw [hlist, foldBackAfter_teardown p s ho (hdown ho)]
    · have ho : s.parties[p].state.connected = false := by
        rw [← Bool.not_eq_true, hconn _ h.2]; rcases hn with rfl | rfl <;> simp
      rw [hlist, foldBackAfter_same p s]
      rw [ho]; rcases hn with rfl | rfl <;> rfl
    · have ho : s.parties[p].state.connected = false := by
        rw [← Bool.not_eq_true, hconn _ h.2, hn]; simp
      rw [hlist]
      exact foldBackAfter_connects ho (hstandby.2 hn)
    · have hline' : phone = true := by rw [← hphone.1, ← hn]; exact decide_eq_true n.isLt
      rw [ht, ← hline hline' _ h.2]
      refine (changeState_line p next _ _ n).trans ?_
      rw [if_pos hn]
      rfl
  · next hphone => rw [hexec, applyCause_discarded (s := took i s) fun h => hphone (h.imp_left hkind.1)]; rfl

/-- The kind of a party as a flag: a phone below 16. -/
theorem kindOf_phone_flag : kindOf p = .phone ↔ decide (p.val < 16) = true := by rw [kindOf_phone, decide_eq_true_iff]

theorem kindOf_codec_flag : kindOf p = .codec ↔ decide (p.val < 16) = false := by rw [kindOf_codec, decide_eq_false_iff_not]; omega

/-- Settles O22: each cause by its row of R6. -/
theorem supervisionCausesAreAppliedOrDiscarded : Obligations.SupervisionCausesAreAppliedOrDiscarded := by
  unfold Obligations.SupervisionCausesAreAppliedOrDiscarded
  intro e he s p hr
  have hanswered : ∀ o ∈ answeredStates, ∀ c, lineChange o .clearing c = countsAfter o .clearing c := by
    intro o ho c
    exact lineChange_clearing (by revert ho; cases o <;> decide) c
  simp only [List.mem_cons, List.not_mem_nil, or_false] at he
  rcases he with rfl | rfl | rfl | rfl | rfl | rfl | rfl
  · exact causeAnswered (ev := some .ring) hr rfl kindOf_phone_flag (by decide) (by decide) (by simp [lineChange, countsAfter])
  · exact causeAnswered (ev := none) hr rfl kindOf_phone_flag (by decide) (by decide) (by simp [lineChange, countsAfter])
  · exact causeAnswered (ev := some .hangup) hr rfl kindOf_phone_flag (by decide) (by decide) fun _ => hanswered
  · exact causeAnswered (ev := some .hangup) hr rfl kindOf_phone_flag (by decide) (by decide) fun _ => hanswered
  · exact causeAnswered (ev := none) hr rfl kindOf_phone_flag (by decide) (by decide) (by simp [lineChange, countsAfter])
  · exact causeAnswered (ev := some .link) hr rfl kindOf_codec_flag (by decide) (by decide) nofun
  · exact causeAnswered (ev := some .link) hr rfl kindOf_codec_flag (by decide) (by decide) nofun

end Sys2Proof.Machine
end

section
/-! SUPPORT. The state after RESET (R2, R35, R76, R96, R114, R136, R140, R153, R169, R194) against the conditions that the steps
keep, and what LS hands before a filter has filled (R36). -/

namespace Sys2Proof.Machine

/-! ## Each item after RESET -/

theorem reset_key (k : KeyIx) : State.reset.keys[k] = Key.atReset k := ofFn_get _ _

theorem reset_delay (k : Programme) : State.reset.delays[k] = Delay.atReset := by simp [State.reset]

theorem reset_party (p : PartyIx) : State.reset.parties[p] = PartyRec.atReset p := ofFn_get _ _

theorem reset_keysOk : KeysOk State.reset where
  active k := by rw [reset_key]; rfl
  trigger k _ := by rw [reset_key]; rfl
  gains k := by rw [reset_key]; exact ⟨.inl (by decide : (24 : Byte).toNat ≤ 192), .inl (by decide : (12 : Byte).toNat ≤ 192)⟩

theorem delayAtReset_ok : DelayOk .a18 Delay.atReset := by constructor <;> decide

theorem reset_delaysOk : DelaysOk State.reset := fun k => by rw [reset_delay]; exact delayAtReset_ok

theorem reset_memoryOk : MemoryOk State.reset := ⟨reset_sram_wf, nofun, rfl⟩

/-- No sample is still to be read after RESET. -/
theorem reset_heldOk : HeldOk State.reset := by
  intro k n hn
  rw [reset_delay] at hn
  exact absurd hn (Nat.not_lt_zero n)

theorem playerAtReset_ok : PlayerOk Player.atReset := by constructor <;> simp [Player.atReset, Step.atReset, Step.ok]

theorem reset_tonesOk : TonesOk State.reset where
  steps a := by simp [State.reset, Step.ok, Step.atReset]
  pitches i := by simp [State.reset]
  players j := by simpa [State.reset] using playerAtReset_ok
  routes r := by simp [State.reset, Route.atReset, gainOk]

theorem supAtReset_ok : SupOk Sup.atReset where
  threshold := by simp [Sup.atReset]
  hyst := by decide
  count := by decide
  run := by decide
  alarm := nofun

theorem reset_metersOk : MetersOk State.reset where
  window := by decide
  inUse := by decide
  repeats := by decide
  left := by decide
  stopped := by decide
  codes n := by simp [State.reset, Point.atReset]
  clips n _ := by simp [State.reset, Point.atReset]
  sups n := by simpa [State.reset] using supAtReset_ok

theorem reset_linesOk : LinesOk State.reset where
  samples n := by simp [State.reset, LineCtx.atReset]
  links n := by simp [State.reset, LinkCtx.atReset]
  counts n := by simp [State.reset, LineCtx.atReset]

theorem reset_logicOk : LogicOk State.reset where
  samples n := by simp [State.reset]
  constant g b h := by simpa [State.reset, Gpo.atReset] using h
  off c := by simp [State.reset, Cell.atReset]

theorem reset_clockOk : ClockOk State.reset.clock := by constructor <;> decide

theorem reset_slotsOk : SlotsOk State.reset := fun q => by simp [State.reset, Port.atReset]

theorem reset_mixOk : MixOk State.reset where
  gains n b := by simp [State.reset, Mix.atReset, gainOk]
  sends n b := by simp [State.reset, Mix.atReset, Ramp.ok]
  sources p b := by simp [State.reset, PartyMix.atReset, Ramp.ok]
  returns p := by simp [State.reset, PartyMix.atReset, Ramp.ok]
  talks p := by simp [State.reset, PartyMix.atReset]
  feeds p := by simp [State.reset, PartyMix.atReset, Feed.without]
  oneBus p a b h := by simp [State.reset, PartyMix.atReset] at h

/-- Settles O60, one condition at a time. -/
theorem resetMeetsEveryCondition : Obligations.ResetMeetsEveryCondition :=
  ⟨reset_partiesOk, reset_foldBacksOk, reset_servicesOk, reset_keysOk, reset_delaysOk, reset_memoryOk, .inl rfl, reset_heldOk,
    reset_tonesOk, reset_metersOk, reset_linesOk, reset_logicOk, reset_clockOk, reset_slotsOk, reset_mixOk⟩

/-! ## Before a filter has filled (R36) -/

/-- A history of fewer than three samples has the filtered value absent (R36). -/
theorem filtered_short {h : List Bool} (hl : h.length < 3) : filtered h = false := by
  unfold filtered
  split
  · simp at hl
  · rfl

/-- An evaluation that hands nothing, raises nothing and leaves the context leaves the state. -/
theorem evaluateParty_line_stands {s : State} {n : LineIx} (hst : s.parties[n.val].state = .idle)
    (hring : s.lines[n].ring.length < 3) : evaluateParty ⟨n.val, by omega⟩ s = s := by
  have he : evaluateLine ⟨n.val, by omega⟩ s.parties[n.val].state (dropTime s.dropCode) s.lines[n.val] =
      (s.lines[n.val], false, []) := by
    rw [hst]
    unfold evaluateLine
    rw [show filtered s.lines[n.val].ring = false from filtered_short hring]
    rfl
  unfold evaluateParty
  simp [he, hand, raiseIf]

theorem evaluateParty_link_stands {s : State} {p : PartyIx} (hp : 16 ≤ p.val) (hst : s.parties[p].state = .offline)
    (hlink : (s.links[p.val - 16]'(by omega)).link.length < 3) : evaluateParty p s = s := by
  unfold evaluateParty
  rw [dif_neg (by omega), hst]
  unfold evaluateLink
  rw [filtered_short hlink]
  simp [hand]

/-- A link up cause at an OFFLINE codec moves it to STANDBY and counts (R6). -/
theorem linkUp_connects {s : State} {p : PartyIx} (hr : s.inReset = false) (hp : 16 ≤ p.val) (hst : s.parties[p].state = .offline) :
    ∃ t, exec (.linkUp p) s = .next t ∧ t.parties[p].state = .standby ∧ t.parties[p].changes = s.parties[p].changes + 1 := by
  have h : CauseAnswered (.linkUp p) false [.offline] .standby (causeFlags (some .link)) s p :=
    causeAnswered hr rfl kindOf_codec_flag (by decide) (by decide) nofun
  unfold CauseAnswered at h
  rw [if_pos ⟨decide_eq_false (by omega), List.mem_singleton.2 hst⟩] at h
  obtain ⟨t, ht, -, -, hrecord, -⟩ := h
  exact ⟨t, ht, by rw [hrecord], by rw [hrecord]⟩

/-- Settles O3: the records of RESET by their definition, the causes by the filter that has not filled, and the first change by the
change of state that LINK_UP makes. -/
theorem resetSetsEveryRecord : Obligations.ResetSetsEveryRecord := by
  unfold Obligations.ResetSetsEveryRecord
  refine ⟨fun s => ⟨_, rfl, rfl, fun p => reset_party p⟩, fun s n hr hst hring => ?_, fun s n hr hst hlink => ?_, fun n => ?_⟩
  · exact (live_of_released _ hr).trans (congrArg _ (evaluateParty_line_stands hst hring))
  · refine (live_of_released _ hr).trans (congrArg _ (evaluateParty_link_stands (Nat.le_add_left 16 n.val) hst ?_))
    simpa using hlink
  · have hreset := reset_party ⟨n.val + 16, by omega⟩
    obtain ⟨t, ht, hst, hcount⟩ := linkUp_connects (s := State.reset) (p := ⟨n.val + 16, by omega⟩) rfl
      (Nat.le_add_left 16 n.val) (by rw [hreset]; simp [PartyRec.atReset])
    rw [hreset] at hcount
    exact ⟨t, ht, hst, hcount⟩

end Sys2Proof.Machine
end

section
/-! SUPPORT. The seven state commands (R14 to R25): the checks as one chain, and what a command that passes them does. -/

namespace Sys2Proof.Machine

variable {names limited : Bool} {allows : Role → Programme → Bool} {move : Kind → PState → Option PState}
variable {role : Role} {p : PartyIx} {r : PartyRec} {e k tag : Byte} {x st : PState} {prog : Programme} {q : PortIx} {s : State}

/-! ## The transitions (R19 to R25) -/

/-- A transition as the rules give it: the states of a phone and of a codec from which it goes, and where it goes. -/
structure MoveTable (move : Kind → PState → Option PState) (phones codecs : List PState) (phoneTo codecTo : PState) : Prop where
  phone : ∀ st, move .phone st = if st ∈ phones then some phoneTo else none
  codec : ∀ st, move .codec st = if st ∈ codecs then some codecTo else none

theorem answerMove_table : MoveTable answerMove [.ringing] [] .screen .screen :=
  ⟨fun st => by cases st <;> rfl, fun st => by cases st <;> rfl⟩

theorem screenMove_table : MoveTable screenMove [.hold, .ready, .priv] [] .screen .screen :=
  ⟨fun st => by cases st <;> rfl, fun st => by cases st <;> rfl⟩

theorem holdMove_table : MoveTable holdMove [.screen, .ready, .priv, .air] [.priv, .air] .hold .standby :=
  ⟨fun st => by cases st <;> rfl, fun st => by cases st <;> rfl⟩

theorem readyMove_table : MoveTable readyMove [.screen, .hold] [] .ready .ready :=
  ⟨fun st => by cases st <;> rfl, fun st => by cases st <;> rfl⟩

theorem privateMove_table : MoveTable privateMove [.screen, .hold, .ready, .air] [.standby, .air] .priv .priv :=
  ⟨fun st => by cases st <;> rfl, fun st => by cases st <;> rfl⟩

theorem takeMove_table : MoveTable takeMove [.hold, .ready, .priv] [.standby, .priv] .air .air :=
  ⟨fun st => by cases st <;> rfl, fun st => by cases st <;> rfl⟩

theorem dropMove_table : MoveTable dropMove [.screen, .hold, .ready, .priv, .air] [] .clearing .clearing :=
  ⟨fun st => by cases st <;> rfl, fun st => by cases st <;> rfl⟩

variable {phones codecs : List PState} {phoneTo codecTo : PState}

/-- Where a transition takes a party, by its index. -/
theorem MoveTable.at (h : MoveTable move phones codecs phoneTo codecTo) (p : PartyIx) (st : PState) :
    move (kindOf p) st =
      if st ∈ (if p.val < 16 then phones else codecs) then some (if p.val < 16 then phoneTo else codecTo) else none := by
  by_cases hp : p.val < 16
  · simp only [(kindOf_phone p).2 hp, h.phone, hp, if_true]
  · simp only [(kindOf_codec p).2 (by omega), h.codec, hp, if_false]

/-- A transition defined for the party. -/
theorem MoveTable.moves (h : MoveTable move phones codecs phoneTo codecTo)
    (hst : (p.val < 16 ∧ st ∈ phones) ∨ (16 ≤ p.val ∧ st ∈ codecs)) :
    move (kindOf p) st = some (if p.val < 16 then phoneTo else codecTo) := by
  rw [h.at, if_pos]
  rcases hst with ⟨hp, hst⟩ | ⟨hp, hst⟩
  · rwa [if_pos hp]
  · rwa [if_neg (by omega)]

/-- A transition that codecs do not have, from a state that is not among those of phones or on a codec. -/
theorem MoveTable.refuses (h : MoveTable move phones [] phoneTo codecTo) (hst : 16 ≤ p.val ∨ st ∉ phones) :
    move (kindOf p) st = none := by
  rw [h.at, if_neg]
  split
  · exact hst.resolve_left (by omega)
  · exact List.not_mem_nil

/-! ## The roles (R16, R17) -/

theorem screeningRole_iff {j : Programme} : screeningRole role j = true ↔ role = .engineering ∨ role = .screener := by
  cases role <;> simp [screeningRole]

theorem studioRole_iff {j : Programme} : studioRole role j = true ↔ role = .engineering ∨ role = .studio j := by
  cases role <;> simp [studioRole]

theorem restricted_iff :
    restricted role r = true ↔ (r.state = .air ∨ r.state = .priv) ∧ ∃ j, role = .studio j ∧ r.programme ≠ j := by
  cases role <;> simp [restricted]

/-- The studio restriction does not concern the party. -/
theorem restricted_false (h : ∀ j, role = .studio j → r.state = .air ∨ r.state = .priv → r.programme = j) :
    restricted role r = false := by
  rw [← Bool.not_eq_true, restricted_iff]
  rintro ⟨hst, j, hrole, hne⟩
  exact hne (h j hrole hst)

/-! ## The checks as one chain (R15) -/

theorem ofCode_code (x : PState) : PState.ofCode x.code = some x := by cases x <;> rfl

/-- A code of 10 or more names no state (R198). -/
theorem ofCode_undefined (h : 10 ≤ e.toNat) : PState.ofCode e = none := by
  unfold PState.ofCode
  split <;> first | omega | rfl

/-- The result of a check: OK where it passes. -/
def resultOf {α : Type} : Except Result α → Result
  | .error r => r
  | .ok _ => .ok

theorem checkState_undefined (h : PState.ofCode e = none) :
    checkState names allows limited move role p r e k = .error .illegal := by
  unfold checkState; rw [h]

theorem checkState_noProgramme (h : checked names (programmeOf k) r.programme = none) :
    checkState names allows limited move role p r e k = .error .illegal := by
  unfold checkState; rw [h]; cases PState.ofCode e <;> rfl

/-- The checks beyond the programme operand, as a chain. -/
theorem checkState_chain (h : checked names (programmeOf k) r.programme = some prog) :
    checkState names allows limited move role p r x.code k =
      if !allows role prog then .error .notAllowed
      else if r.state ≠ x then .error .stale
      else (move (kindOf p) r.state).elim (.error .illegal) fun st =>
        if limited && restricted role r then .error .notAllowed else .ok (st, prog) := by
  unfold checkState
  rw [ofCode_code, h]
  cases move (kindOf p) r.state <;> rfl

/-- The checks pass. -/
theorem checkState_ok (hk : checked names (programmeOf k) r.programme = some prog) (ha : allows role prog = true)
    (hx : r.state = x) (hm : move (kindOf p) r.state = some st) (hr : (limited && restricted role r) = false) :
    checkState names allows limited move role p r x.code k = .ok (st, prog) := by
  rw [checkState_chain hk, ha, hm]
  simp [hx, hr]

/-- The command defines no transition from the state of the party. -/
theorem checkState_noMove (hk : checked names (programmeOf k) r.programme = some prog) (ha : allows role prog = true)
    (hm : move (kindOf p) r.state = none) : checkState names allows limited move role p r r.state.code k = .error .illegal := by
  rw [checkState_chain hk, ha, hm]
  simp

/-! ## The answer of a state command -/

theorem statePayload_eq (p : PartyIx) (x : PState) (k : Byte) : statePayload p x k = [0, byte p.val, x.code, k] := by
  unfold statePayload bytes16
  rw [Nat.div_eq_of_lt (by omega)]
  rfl

theorem stateCommand_error {res : Result} (h : checkState names allows limited move s.ports[q].role p s.parties[p] e k = .error res) :
    stateCommand names allows limited move q tag [0, byte p.val, e, k] s = reply q tag res (stateBody s p) s := by
  simp only [stateCommand, be_pay, h]

theorem stateCommand_ok (h : checkState names allows limited move s.ports[q].role p s.parties[p] e k = .ok (st, prog)) :
    stateCommand names allows limited move q tag [0, byte p.val, e, k] s =
      reply q tag .ok (stateBody (changeState p st prog s) p) (changeState p st prog s) := by
  simp only [stateCommand, be_pay, h]

/-- What a state command that passes its checks leaves: the change of state, and OK with the record after it (R18). -/
structure Moved (q : PortIx) (tag : Byte) (p : PartyIx) (st : PState) (k : Programme) (s t : State) : Prop where
  onlyParty : OnlyParty p s t
  handed : t.handed = s.handed
  record : t.parties[p] = recordAfter s p st k
  foldBacks : t.foldBacks = (changeState p st k s).foldBacks
  lines : t.lines = (changeState p st k s).lines
  replied : Replied q tag .ok (stateReply p st k (s.parties[p].changes + 1)) Event.party.flagOf s t

/-- A reply over a change of state. -/
theorem moved_reply (q : PortIx) (tag : Byte) (p : PartyIx) (st : PState) (k : Programme) (s : State) :
    Moved q tag p st k s (reply q tag .ok (stateBody (changeState p st k s) p) (changeState p st k s)) where
  onlyParty := (changeState_onlyParty p st k s).withPorts _
  handed := changeState_handed ..
  record := changeState_party_self ..
  foldBacks := rfl
  lines := rfl
  replied := by
    have hbody : stateBody (changeState p st k s) p = stateReply p st k (s.parties[p].changes + 1) := by
      unfold stateBody; rw [changeState_party_self]; rfl
    rw [hbody]
    exact replied_of_raised (changeState_ports p st k s)

/-- A state command that passes its checks moves the party. -/
theorem stateCommand_moved {i : Instr} (hr : s.inReset = false)
    (hexec : exec i s = live s (stateCommand names allows limited move q tag (statePayload p x k) s))
    (hc : checkState names allows limited move s.ports[q].role p s.parties[p] x.code k = .ok (st, prog)) :
    ∃ t, exec i s = .next t ∧ Moved q tag p st prog s t := by
  rw [hexec, live_of_released _ hr, statePayload_eq, stateCommand_ok hc]
  exact ⟨_, rfl, moved_reply q tag p st prog s⟩

/-- A state command that fails a check changes nothing but its reply (R18). -/
theorem stateCommand_refused {i : Instr} {res : Result} (hr : s.inReset = false)
    (hexec : exec i s = live s (stateCommand names allows limited move q tag [0, byte p.val, e, k] s))
    (hc : checkState names allows limited move s.ports[q].role p s.parties[p] e k = .error res) :
    ∃ t, exec i s = .next t ∧ t = { s with ports := t.ports } ∧
      Replied q tag res (stateReply p s.parties[p].state s.parties[p].programme s.parties[p].changes) 0 s t := by
  rw [hexec, live_of_released _ hr, stateCommand_error hc]
  exact ⟨_, rfl, rfl, replied_self ..⟩

/-- A move between connected states leaves the lists and the lines. -/
theorem Moved.stands {t : State} (h : Moved q tag p st prog s t) (ho : s.parties[p].state.connected = true)
    (hn : st.connected = true) : t.foldBacks = s.foldBacks ∧ t.lines = s.lines :=
  ⟨h.foldBacks.trans (changeState_foldBacks_same p st prog s (ho.trans hn.symm)),
    h.lines.trans (changeState_lines_connected p st prog s ho hn)⟩

/-- The record of a party moved, with the mark it then has. -/
theorem Moved.record_mark {t : State} {m : Option Count} (h : Moved q tag p st prog s t)
    (hm : markAfter s p s.parties[p] st prog = m) :
    t.parties[p] = { s.parties[p] with
      state := st, programme := prog, changes := s.parties[p].changes + 1, echoMark := m } := by
  rw [h.record, recordAfter, hm]

/-- The line of a party moved. -/
theorem Moved.line {t : State} {n : LineIx} (h : Moved q tag p st prog s t) (hn : p.val = n.val) :
    t.lines[n] = lineChange s.parties[p].state st s.lines[n] := by
  rw [h.lines, changeState_line, if_pos hn.symm]

/-- The request list of a party moved. -/
theorem Moved.foldBack {t : State} (h : Moved q tag p st prog s t) : t.foldBacks[p] = foldBackAfter s p s.parties[p].state st := by
  rw [h.foldBacks, changeState_foldBack_self]

/-- A move of a connected party that does not leave the air for HOLD: the mark leaves HOLD and READY with the party, and goes with
the programme (R13). -/
theorem markAfter_connected (hair : ¬ (s.parties[p].state = .air ∧ st = .hold)) (hn : st.connected = true) :
    markAfter s p s.parties[p] st prog =
      if (s.parties[p].state.waiting = true ∧ st.waiting = false) ∨ prog ≠ s.parties[p].programme then none
      else s.parties[p].echoMark := by
  rw [markAfter_kept p st prog s _ fun h => hair ⟨h.2.1, h.2.2.1⟩]
  by_cases hk : prog = s.parties[p].programme
  · simp [hk, hn]
  · rw [if_pos (.inr (.inl hk)), if_pos (.inr hk)]

/-! ## ANSWER, SCREEN and READY (R19, R20, R22) -/

/-- Settles O14. -/
theorem answerConnectsARingingPhone : Obligations.AnswerConnectsARingingPhone := by
  unfold Obligations.AnswerConnectsARingingPhone
  refine ⟨fun s q tag k n p hr hn hst => ?_, fun s q tag k p hr hst => ?_⟩
  · have hp : p.val < 16 := hn ▸ n.isLt
    have hmove := answerMove_table.moves (p := p) (st := s.parties[p].state) (.inl ⟨hp, List.mem_singleton.2 hst⟩)
    rw [ite_self] at hmove
    obtain ⟨t, ht, hm⟩ := stateCommand_moved (i := .answer q tag (statePayload p .ringing k)) hr rfl
      (checkState_ok (names := false) (allows := anyRole) (limited := false) (role := s.ports[q].role) rfl rfl hst hmove rfl)
    have hmark : markAfter s p s.parties[p] .screen s.parties[p].programme = s.parties[p].echoMark := by
      rw [markAfter_kept p _ _ s _ (by simp), hst]; simp [PState.waiting, PState.connected]
    obtain ⟨hlist, hsel, hnone⟩ := foldBackAfter_connects (s := s) (p := p) (old := s.parties[p].state) (next := .screen)
      (by rw [hst]; rfl) rfl
    rw [← hm.foldBack] at hlist hsel hnone
    have hrecord := hm.record_mark hmark
    refine ⟨t, ht, hm.onlyParty, hm.handed, hrecord, hlist, hsel, hnone, ?_, ?_, hm.replied⟩
    · rw [hm.line hn, hst]; rfl
    · unfold seize; rw [hrecord]; simp [hp, PState.phoneConnected]
  · refine stateCommand_refused (names := false) (allows := anyRole) (limited := false) hr (by rw [statePayload_eq]; rfl)
      (checkState_noMove rfl rfl (answerMove_table.refuses (hst.imp_right fun h => by simpa using h)))

end Sys2Proof.Machine
end

section
/-! SUPPORT. SCREEN, READY, HOLD, PRIVATE, TAKE and DROP (R20 to R25), and the refusals of the state commands (R15 to R18). -/

namespace Sys2Proof.Machine

/-! ## SCREEN and READY (R20, R22) -/

/-- Settles O15. -/
theorem screenAndReadyMoveAPhone : Obligations.ScreenAndReadyMoveAPhone := by
  unfold Obligations.ScreenAndReadyMoveAPhone
  refine ⟨fun s q tag k p e hr hp hrole hst he => ?_, fun s q tag k p hr hrole hst => ?_,
    fun s q tag j p e hr hp hrole hst he => ?_, fun s q tag j p hr hrole hst => ?_⟩
  · have hmove := screenMove_table.moves (p := p) (.inl ⟨hp, he⟩)
    rw [ite_self, ← hst] at hmove
    obtain ⟨t, ht, hm⟩ := stateCommand_moved (i := .screen q tag (statePayload p e k)) hr rfl
      (checkState_ok (prog := s.parties[p].programme) rfl (screeningRole_iff.2 hrole) hst hmove rfl)
    have hconn : s.parties[p].state.connected = true := by rw [hst]; revert he; cases e <;> decide
    have hmark : markAfter s p s.parties[p] .screen s.parties[p].programme =
        if e = .priv then s.parties[p].echoMark else none := by
      rw [markAfter_connected (by simp) rfl, hst]
      revert he; cases e <;> simp [PState.waiting]
    obtain ⟨hlists, hlines⟩ := hm.stands hconn rfl
    exact ⟨t, ht, hm.onlyParty, hm.handed, hm.record_mark hmark, hlists, hlines, hm.replied⟩
  · exact stateCommand_refused (names := false) hr (by rw [statePayload_eq]; rfl)
      (checkState_noMove rfl (screeningRole_iff.2 hrole) (screenMove_table.refuses hst))
  · have hmove := readyMove_table.moves (p := p) (.inl ⟨hp, he⟩)
    rw [ite_self, ← hst] at hmove
    obtain ⟨t, ht, hm⟩ := stateCommand_moved (i := .ready q tag (statePayload p e (programmeCode j))) hr rfl
      (checkState_ok (prog_some j) (screeningRole_iff.2 hrole) hst hmove rfl)
    have hconn : s.parties[p].state.connected = true := by rw [hst]; revert he; cases e <;> decide
    have hmark : markAfter s p s.parties[p] .ready j =
        if j = s.parties[p].programme then s.parties[p].echoMark else none := by
      rw [markAfter_connected (by simp) rfl]
      by_cases hj : j = s.parties[p].programme <;> simp [hj, PState.waiting]
    obtain ⟨hlists, hlines⟩ := hm.stands hconn rfl
    exact ⟨t, ht, hm.onlyParty, hm.handed, hm.record_mark hmark, hlists, hlines, hm.replied⟩
  · exact stateCommand_refused (names := true) hr (by rw [statePayload_eq]; rfl)
      (checkState_noMove (prog_some j) (screeningRole_iff.2 hrole) (readyMove_table.refuses hst))

/-! ## HOLD (R21) -/

/-- The mark a HOLD leaves: the write count of the delay for a phone leaving the air while that delay is not in BYPASS, where the
guard's test holds (R12, R129), and otherwise the mark held. -/
theorem markAfter_hold {s : State} {p : PartyIx} {e : PState} (hst : s.parties[p].state = e)
    (he : (p.val < 16 ∧ e ∈ [PState.screen, .ready, .priv, .air]) ∨ (16 ≤ p.val ∧ e ∈ [PState.priv, .air])) :
    markAfter s p s.parties[p] (if p.val < 16 then .hold else .standby) s.parties[p].programme =
      if p.val < 16 ∧ e = .air ∧ s.delays[s.parties[p].programme].state ≠ .bypass then
        if 1 ≤ s.delays[s.parties[p].programme].length ∧
            s.delays[s.parties[p].programme].length ≤ s.memSize.capacity then
          some s.delays[s.parties[p].programme].w
        else none
      else s.parties[p].echoMark := by
  by_cases hrec : p.val < 16 ∧ e = .air ∧ s.delays[s.parties[p].programme].state ≠ .bypass
  · rw [if_pos hrec]
    obtain ⟨hp, hair, hdelay⟩ := hrec
    have hon := (delay_on _).2 hdelay
    rw [if_pos hp, markAfter_hold_air p _ s _ ((kindOf_phone p).2 hp) (hst.trans hair) hon]
    simp only [guardHolds, hon, Bool.true_and, decide_eq_true_eq]
    rfl
  · rw [if_neg hrec, markAfter_kept, if_neg]
    · rw [hst]
      rcases he with ⟨hp, he⟩ | ⟨hp, he⟩
      · rw [if_pos hp]; simp [PState.waiting, PState.connected]
      · rw [if_neg (by omega)]; revert he; cases e <;> simp [PState.waiting, PState.connected]
    · rw [hst, kindOf_phone, delay_on]
      rintro ⟨hp, hair, -, hdelay⟩
      exact hrec ⟨hp, hair, hdelay⟩

/-- Settles O16. -/
theorem holdMovesAPartyAndRecordsItsMark : Obligations.HoldMovesAPartyAndRecordsItsMark := by
  unfold Obligations.HoldMovesAPartyAndRecordsItsMark
  intro s q tag k p e hr hst he hlimit
  have hmove := holdMove_table.moves he
  rw [← hst] at hmove
  obtain ⟨t, ht, hm⟩ := stateCommand_moved (i := .hold q tag (statePayload p e k)) hr rfl
    (checkState_ok (prog := s.parties[p].programme) rfl rfl hst hmove (restricted_false (by rwa [hst])))
  have hold : s.parties[p].state.connected = true := by
    rw [hst]; rcases he with ⟨-, he⟩ | ⟨-, he⟩ <;> revert he <;> cases e <;> decide
  obtain ⟨hlists, hlines⟩ := hm.stands hold (by split <;> rfl)
  exact ⟨t, ht, hm.onlyParty, hm.handed, hm.record_mark (markAfter_hold hst he), hlists, hlines, hm.replied⟩

/-! ## PRIVATE and TAKE (R23, R24) -/

/-- A move to PRIVATE or AIR on a programme, from a connected state, within the roles and the studio restriction. -/
theorem talk_moves {i : Instr} {move : Kind → PState → Option PState} {phones codecs : List PState} {next : PState} {s : State}
    {q : PortIx} {tag : Byte} {j : Programme} {p : PartyIx} (htable : MoveTable move phones codecs next next) (hr : s.inReset = false)
    (hexec : exec i s =
      live s (stateCommand true studioRole true move q tag (statePayload p s.parties[p].state (programmeCode j)) s))
    (hnext : next.connected = true ∧ next.waiting = false) (hphones : ∀ x ∈ phones, x.connected = true)
    (hcodecs : ∀ x ∈ codecs, x.connected = true) (hrole : s.ports[q].role = .engineering ∨ s.ports[q].role = .studio j)
    (hst : (p.val < 16 ∧ s.parties[p].state ∈ phones) ∨ (16 ≤ p.val ∧ s.parties[p].state ∈ codecs))
    (hlimit : s.ports[q].role = .studio j → s.parties[p].state = .air ∨ s.parties[p].state = .priv → s.parties[p].programme = j) :
    ∃ t, exec i s = .next t ∧ OnlyParty p s t ∧ t.handed = s.handed ∧
      t.parties[p] = { s.parties[p] with
        state := next, programme := j, changes := s.parties[p].changes + 1
        echoMark :=
          if s.parties[p].state = .hold ∨ s.parties[p].state = .ready ∨ j ≠ s.parties[p].programme then none
          else s.parties[p].echoMark } ∧
      t.foldBacks = s.foldBacks ∧ t.lines = s.lines ∧
      Replied q tag .ok (stateReply p next j (s.parties[p].changes + 1)) Event.party.flagOf s t := by
  have hmove := htable.moves hst
  rw [ite_self] at hmove
  have hfree : restricted s.ports[q].role s.parties[p] = false := restricted_false fun j' hj' hair => by
    have hjj : j' = j := by
      rcases hrole with h | h <;> rw [hj'] at h <;> cases h
      rfl
    exact (hlimit (hjj ▸ hj') hair).trans hjj.symm
  obtain ⟨t, ht, hm⟩ := stateCommand_moved hr hexec (checkState_ok (prog_some j) (studioRole_iff.2 hrole) rfl hmove hfree)
  have hconn : s.parties[p].state.connected = true := by
    rcases hst with ⟨-, h⟩ | ⟨-, h⟩
    exacts [hphones _ h, hcodecs _ h]
  have hmark : markAfter s p s.parties[p] next j =
      if s.parties[p].state = .hold ∨ s.parties[p].state = .ready ∨ j ≠ s.parties[p].programme then none
      else s.parties[p].echoMark := by
    have hwait : s.parties[p].state.waiting = true ↔ s.parties[p].state = .hold ∨ s.parties[p].state = .ready := by
      cases s.parties[p].state <;> simp [PState.waiting]
    rw [markAfter_connected (by rintro ⟨-, rfl⟩; cases hnext.2) hnext.1]
    simp only [hwait, hnext.2, and_true, or_assoc]
  obtain ⟨hlists, hlines⟩ := hm.stands hconn hnext.1
  exact ⟨t, ht, hm.onlyParty, hm.handed, hm.record_mark hmark, hlists, hlines, hm.replied⟩

/-- Settles O17: both commands are moves to a talking state on a programme. -/
theorem privateAndTakeMoveAParty : Obligations.PrivateAndTakeMoveAParty := by
  unfold Obligations.PrivateAndTakeMoveAParty
  intro e he s q tag j p hr hrole hst hlimit
  simp only [List.mem_cons, List.not_mem_nil, or_false] at he
  rcases he with rfl | rfl
  · exact talk_moves privateMove_table hr rfl (by decide) (by decide) (by decide) hrole hst hlimit
  · exact talk_moves takeMove_table hr rfl (by decide) (by decide) (by decide) hrole hst hlimit

/-! ## DROP (R25) -/

/-- Settles O18. -/
theorem dropTearsAPhoneDown : Obligations.DropTearsAPhoneDown := by
  unfold Obligations.DropTearsAPhoneDown
  refine ⟨fun s q tag k n p hr hn hst hlimit => ?_, fun s q tag k p hr hst => ?_⟩
  · have hp : p.val < 16 := hn ▸ n.isLt
    have hmove := dropMove_table.moves (p := p) (.inl ⟨hp, hst⟩)
    rw [ite_self] at hmove
    obtain ⟨t, ht, hm⟩ := stateCommand_moved (i := .drop q tag (statePayload p s.parties[p].state k)) hr rfl
      (checkState_ok (prog := s.parties[p].programme) rfl rfl rfl hmove (restricted_false hlimit))
    have hphone : s.parties[p].state.phoneConnected = true ∧ s.parties[p].state.connected = true := by
      revert hst; cases s.parties[p].state <;> decide
    have hmark : markAfter s p s.parties[p] .clearing s.parties[p].programme = none := by
      rw [markAfter_cause _ rfl fun _ => rfl, if_pos hphone.2]
    have hrecord := hm.record_mark hmark
    refine ⟨t, ht, hm.onlyParty, hm.handed, hrecord, ?_, ?_, ?_, hm.replied⟩
    · rw [hm.foldBack, foldBackAfter_teardown p s hphone.2 rfl]
    · rw [hm.line hn, lineChange_clearing hphone.1]
    · unfold seize; rw [hrecord]; simp [PState.phoneConnected]
  · refine stateCommand_refused (names := false) (allows := anyRole) hr (by rw [statePayload_eq]; rfl)
      (checkState_noMove rfl rfl (dropMove_table.refuses (hst.imp_right fun h => ?_)))
    revert h; cases s.parties[p].state <;> decide

end Sys2Proof.Machine
end

section
/-! SUPPORT. What a state command is answered, for every role, state and operand (R15 to R18). -/

namespace Sys2Proof.Machine

variable {names limited : Bool} {allows : Role → Programme → Bool} {move : Kind → PState → Option PState}
variable {phones codecs : List PState} {phoneTo codecTo : PState}

/-- A programme operand that is defined carries the number of its programme (R198). -/
theorem programmeOf_some {k : Byte} {j : Programme} : programmeOf k = some j ↔ k = programmeCode j := by
  constructor
  · intro h
    unfold programmeOf at h
    split at h
    · cases h; exact BitVec.eq_of_toNat_eq ‹_›
    · cases h; exact BitVec.eq_of_toNat_eq ‹_›
    · cases h
  · rintro rfl; exact prog_some j

/-- A programme operand is undefined where it is neither 1 nor 2. -/
theorem programmeOf_none {k : Byte} : programmeOf k = none ↔ k ≠ 1 ∧ k ≠ 2 := by
  rw [Option.eq_none_iff_forall_ne_some]
  simp only [ne_eq, programmeOf_some, Fin.forall_fin_two]
  rfl

/-- The first check that fails gives the result, and OK where none does (R15). `roles` is R16 as a condition on the role and the
programme operand. -/
def checkResult (names : Bool) (roles : Role → Byte → Bool) (limited : Bool) (phones codecs : List PState) (role : Role)
    (p : PartyIx) (r : PartyRec) (x : PState) (k : Byte) : Result :=
  if names = true ∧ k ≠ 1 ∧ k ≠ 2 then .illegal
  else if roles role k = false then .notAllowed
  else if x ≠ r.state then .stale
  else if x ∉ (if p.val < 16 then phones else codecs) then .illegal
  else if limited = true ∧ (x = .air ∨ x = .priv) ∧ (∃ j : Programme, role = .studio j ∧ r.programme ≠ j) then .notAllowed
  else .ok

/-- The roles of a command in terms of its programme operand, where it names one, and of the role alone, where it does not. -/
def RolesRead (names : Bool) (allows : Role → Programme → Bool) (roles : Role → Byte → Bool) : Prop :=
  ∀ role k held prog, checked names (programmeOf k) held = some prog → roles role k = allows role prog

/-- The checks give the result of the chain. -/
theorem resultOf_checkState {roles : Role → Byte → Bool} (htable : MoveTable move phones codecs phoneTo codecTo)
    (hroles : RolesRead names allows roles) (role : Role) (p : PartyIx) (r : PartyRec) (x : PState) (k : Byte) :
    resultOf (checkState names allows limited move role p r x.code k) =
      checkResult names roles limited phones codecs role p r x k := by
  unfold checkResult
  cases hk : checked names (programmeOf k) r.programme with
  | none =>
    have hundefined : names = true ∧ k ≠ 1 ∧ k ≠ 2 := by
      cases names
      · cases hk
      · exact ⟨rfl, programmeOf_none.1 hk⟩
    rw [checkState_noProgramme hk, if_pos hundefined]; rfl
  | some prog =>
    have hdefined : ¬ (names = true ∧ k ≠ 1 ∧ k ≠ 2) := by
      rintro ⟨rfl, hne⟩
      have hk' : programmeOf k = some prog := hk
      rw [programmeOf_none.2 hne] at hk'; cases hk'
    rw [checkState_chain hk, if_neg hdefined, hroles role k _ prog hk, htable.at]
    generalize (if p.val < 16 then phones else codecs) = froms
    cases allows role prog with
    | false => rfl
    | true =>
      by_cases hx : x = r.state
      · subst hx
        have hlimit : (limited && restricted role r) = true ↔
            limited = true ∧ (r.state = .air ∨ r.state = .priv) ∧ ∃ j : Programme, role = .studio j ∧ r.programme ≠ j := by
          rw [Bool.and_eq_true_iff, restricted_iff]
        by_cases hfrom : r.state ∈ froms
        · simp only [hfrom, Bool.not_true, Bool.false_eq_true, if_false, if_true, ne_eq, not_true_eq_false, reduceCtorEq,
            Option.elim_some]
          by_cases hl : (limited && restricted role r) = true
          · rw [if_pos hl, if_pos (hlimit.1 hl)]; rfl
          · rw [if_neg hl, if_neg (mt hlimit.2 hl)]; rfl
        · simp [hfrom, resultOf]
      · simp [hx, Ne.symm hx, resultOf]

/-- A state command is answered with the result of its checks, and changes nothing but its reply where that is not OK (R18). -/
theorem stateCommand_answer {roles : Role → Byte → Bool} {i : Instr} {s : State} {q : PortIx} {tag k : Byte} {p : PartyIx}
    {x : PState} (htable : MoveTable move phones codecs phoneTo codecTo) (hroles : RolesRead names allows roles)
    (hr : s.inReset = false) (hexec : exec i s = live s (stateCommand names allows limited move q tag (statePayload p x k) s)) :
    ∃ t, exec i s = .next t ∧
      t.ports[q].slot.result = checkResult names roles limited phones codecs s.ports[q].role p s.parties[p] x k ∧
      (checkResult names roles limited phones codecs s.ports[q].role p s.parties[p] x k ≠ .ok →
        t = { s with ports := t.ports } ∧
        Replied q tag (checkResult names roles limited phones codecs s.ports[q].role p s.parties[p] x k)
          (stateReply p s.parties[p].state s.parties[p].programme s.parties[p].changes) 0 s t) := by
  have hresult := resultOf_checkState (limited := limited) htable hroles s.ports[q].role p s.parties[p] x k
  rw [← hresult]
  cases hc : checkState names allows limited move s.ports[q].role p s.parties[p] x.code k with
  | error res =>
    obtain ⟨t, ht, hsame, hreply⟩ := stateCommand_refused hr (by rw [← statePayload_eq]; exact hexec) hc
    exact ⟨t, ht, by rw [hreply.slot]; rfl, fun _ => ⟨hsame, hreply⟩⟩
  | ok moved =>
    obtain ⟨t, ht, hm⟩ := stateCommand_moved hr hexec hc
    exact ⟨t, ht, by rw [hm.replied.slot]; rfl, fun h => absurd rfl h⟩

/-- What a command that reads no programme and every role may use takes from its operands. -/
theorem anyRole_read : RolesRead false anyRole fun _ _ => true := fun _ _ _ _ _ => rfl

theorem screeningRole_read (names : Bool) :
    RolesRead names screeningRole fun r _ => decide (r = .engineering ∨ r = .screener) := by
  intro role _ _ prog _
  cases role <;> simp [screeningRole]

theorem studioRole_read :
    RolesRead true studioRole fun r k => decide (r = .engineering ∨ (r = .studio 0 ∧ k = 1) ∨ (r = .studio 1 ∧ k = 2)) := by
  intro role k _ prog h
  obtain rfl := programmeOf_some.1 h
  rw [Bool.eq_iff_iff, studioRole_iff, decide_eq_true_iff]
  revert prog
  simp [Fin.forall_fin_two, programmeCode, byte]

/-! ## Payloads that give no party or no state (R18, R198) -/

/-- A party index above 23 names none. -/
theorem index_none {h l : Byte} (hi : 24 ≤ h.toNat * 256 + l.toNat) : fin? 24 (be16 h l) = none := by
  unfold fin? be16; rw [dif_neg (by omega)]

/-- A state command whose payload is of another length, or names no party, answers ILLEGAL without payload. -/
theorem stateCommand_noParty {q : PortIx} {tag : Byte} {pl : List Byte} {s : State}
    (h : pl.length ≠ 4 ∨ ∃ h l x y, pl = [h, l, x, y] ∧ 24 ≤ h.toNat * 256 + l.toNat) :
    stateCommand names allows limited move q tag pl s = reply q tag .illegal [] s := by
  unfold stateCommand
  split
  · rcases h with h | ⟨_, _, _, _, hpl, hi⟩
    · simp at h
    · cases hpl; rw [index_none hi]
  · rfl

/-- What R18 says of the answers of a state command, whatever its payload. -/
theorem stateCommand_refusals {c : PortIx → Byte → List Byte → Instr}
    (hexec : ∀ q tag pl s, exec (c q tag pl) s = live s (stateCommand names allows limited move q tag pl s)) (s : State) (q : PortIx)
    (tag : Byte) (hr : s.inReset = false) :
    (∀ pl : List Byte, ∃ t r body, exec (c q tag pl) s = .next t ∧
      t.ports[q].slot = { tag := tag, result := r, body := body } ∧
      (r ≠ .ok → t = { s with ports := t.ports } ∧ Replied q tag r body 0 s t)) ∧
    (∀ pl : List Byte, (pl.length ≠ 4 ∨ ∃ h l x y, pl = [h, l, x, y] ∧ 24 ≤ h.toNat * 256 + l.toNat) →
      ∃ t, exec (c q tag pl) s = .next t ∧ t = { s with ports := t.ports } ∧ Replied q tag .illegal [] 0 s t) ∧
    ∀ (p : PartyIx) (x k : Byte), 10 ≤ x.toNat →
      ∃ t, exec (c q tag [0, byte p.val, x, k]) s = .next t ∧ t = { s with ports := t.ports } ∧
        Replied q tag .illegal (stateReply p s.parties[p].state s.parties[p].programme s.parties[p].changes) 0 s t := by
  refine ⟨fun pl => ?_, fun pl hpl => ?_, fun p x k hx => stateCommand_refused hr (hexec ..) (checkState_undefined (ofCode_undefined hx))⟩
  · rw [hexec, live_of_released _ hr]
    rcases stateCommand_cases names allows limited move q tag pl s with ⟨r, body, h⟩ | ⟨p, st, k, body, -, h⟩
    · rw [h]
      exact ⟨_, r, body, rfl, (replied_self q tag r body s).slot, fun _ => ⟨rfl, replied_self ..⟩⟩
    · rw [h]
      exact ⟨_, .ok, body, rfl, (replied_self q tag .ok body _).slot, fun hok => absurd rfl hok⟩
  · rw [hexec, live_of_released _ hr, stateCommand_noParty hpl]
    exact ⟨_, rfl, rfl, replied_self ..⟩

/-- Settles O19: each command by its row of R14 to R25. -/
theorem refusedStateCommandsChangeNothing : Obligations.RefusedStateCommandsChangeNothing := by
  unfold Obligations.RefusedStateCommandsChangeNothing
  refine ⟨fun e he s q tag k p x hr => ?_, fun c hc s q tag hr => ?_⟩
  · simp only [List.mem_cons, List.not_mem_nil, or_false] at he
    rcases he with rfl | rfl | rfl | rfl | rfl | rfl | rfl
    · exact stateCommand_answer answerMove_table anyRole_read hr rfl
    · exact stateCommand_answer screenMove_table (screeningRole_read false) hr rfl
    · exact stateCommand_answer holdMove_table anyRole_read hr rfl
    · exact stateCommand_answer readyMove_table (screeningRole_read true) hr rfl
    · exact stateCommand_answer privateMove_table studioRole_read hr rfl
    · exact stateCommand_answer takeMove_table studioRole_read hr rfl
    · exact stateCommand_answer dropMove_table anyRole_read hr rfl
  · simp only [List.mem_cons, List.not_mem_nil, or_false] at hc
    rcases hc with rfl | rfl | rfl | rfl | rfl | rfl | rfl
    all_goals exact stateCommand_refusals (fun _ _ _ _ => rfl) s q tag hr

end Sys2Proof.Machine
end

section
/-! SUPPORT. READ TABLE, READ PARTY and SET PARTY (R28 to R33): the bytes of a record, and what is stored. -/

namespace Sys2Proof.Machine

/-! ## The bytes of a record (R199) -/

/-- Byte i of entry j in a body of equal entries in order. -/
theorem flat_getElem {n m : Nat} (f : Fin n → List Byte) (h : ∀ i, (f i).length = m) (j : Fin n) {i : Nat} (hi : i < m) :
    ((List.finRange n).flatMap f)[m * j.val + i]? = (f j)[i]? := by
  rw [← flat_get f h j, List.getElem?_take_of_lt hi, List.getElem?_drop]

/-- Eight bits of a count as a byte of a four-byte field (R198). -/
theorem byte_extract (x : Count) (i : Nat) : byte (x.toNat / 2 ^ i) = x.extractLsb' i 8 := by
  apply BitVec.eq_of_toNat_eq
  simp [byte, BitVec.extractLsb'_toNat, Nat.shiftRight_eq_div_pow]

/-- A count as a four-byte field (R198). -/
theorem bytes32_count (x : Count) :
    bytes32 x.toNat = [x.extractLsb' 24 8, x.extractLsb' 16 8, x.extractLsb' 8 8, x.extractLsb' 0 8] := by
  simp only [bytes32, ← byte_extract, Nat.reducePow, Nat.div_one]

/-- The record of a party as it is sent, byte by byte (R32, R199). -/
theorem partyBody_bytes (s : State) (p : PartyIx) :
    partyBody s p =
      [0, byte p.val, (kindOf p).code, s.parties[p].state.code, programmeCode s.parties[p].programme, s.parties[p].changes,
        s.parties[p].sourceGain, s.parties[p].returnGain, byte s.parties[p].group.val, flag s.parties[p].foldBack,
        flag s.parties[p].toneMute, flag s.parties[p].echoMark.isSome, (s.parties[p].echoMark.getD 0).extractLsb' 24 8,
        (s.parties[p].echoMark.getD 0).extractLsb' 16 8, (s.parties[p].echoMark.getD 0).extractLsb' 8 8,
        (s.parties[p].echoMark.getD 0).extractLsb' 0 8, keyCode s.foldBacks[p].inService,
        byte ((filteredFirst s p).toNat + 2 * (filteredSecond s p).toNat)] := by
  have hindex : bytes16 p.val = [0, byte p.val] := by
    unfold bytes16; rw [Nat.div_eq_of_lt (by omega)]; rfl
  unfold partyBody
  dsimp only
  rw [hindex, bytes32_count]
  rfl

/-- The supervision flags as a byte (R32). -/
theorem flags_byte (a b : Bool) : a.toNat + 2 * b.toNat = (if a then 1 else 0) + if b then 2 else 0 := by
  cases a <;> cases b <;> rfl

theorem kind_code (p : PartyIx) : (kindOf p).code = if p.val < 16 then 0 else 1 := by unfold kindOf; split <;> rfl

/-- READ PARTY of a payload that names no party. -/
theorem readParty_noParty {q : PortIx} {tag : Byte} {pl : List Byte} {s : State}
    (h : pl.length ≠ 2 ∨ ∃ h l, pl = [h, l] ∧ 24 ≤ h.toNat * 256 + l.toNat) : readParty q tag pl s = reply q tag .illegal [] s := by
  unfold readParty
  split
  · rcases h with h | ⟨_, _, hpl, hi⟩
    · simp at h
    · cases hpl; rw [index_none hi]
  · rfl

/-- A reply over the state itself, whose body is known in another form. -/
theorem replied_of_eq {q : PortIx} {tag : Byte} {r : Result} {body body' : List Byte} (s : State) (h : body' = body) :
    Replied q tag r body 0 s (reply q tag r body' s) := h ▸ replied_self ..

/-- Settles O9. -/
theorem theTableIsRead : Obligations.TheTableIsRead := by
  unfold Obligations.TheTableIsRead
  refine ⟨by decide, fun s q tag hr => ⟨?_, fun pl hpl => ?_⟩, fun s q tag p hr => ?_, fun s q tag pl hr hpl => ?_⟩
  · refine ⟨_, tableBody s, live_of_released _ hr, rfl, replied_self .., len_table s, fun p => ?_⟩
    have hentry (i : Nat) (hi : i < 3) := flat_getElem
      (fun p : PartyIx => [s.parties[p].state.code, programmeCode s.parties[p].programme, s.parties[p].changes])
      (fun _ => rfl) p hi
    exact ⟨hentry 0 (by omega), hentry 1 (by omega), hentry 2 (by omega)⟩
  · have hread : plainRead tableBody q tag pl s = reply q tag .illegal [] s := by
      unfold plainRead; rw [if_neg (by simpa using hpl)]
    exact ⟨_, (live_of_released _ hr).trans (congrArg _ hread), rfl, replied_self ..⟩
  · have hread : readParty q tag [0, byte p.val] s = reply q tag .ok (partyBody s p) s := by simp only [readParty, be_pay]
    refine ⟨_, (live_of_released _ hr).trans (congrArg _ hread), rfl, replied_of_eq s ?_⟩
    rw [partyBody_bytes, kind_code, flags_byte]
    cases s.foldBacks[p].inService <;> rfl
  · exact ⟨_, (live_of_released _ hr).trans (congrArg _ (readParty_noParty hpl)), rfl, replied_self ..⟩

end Sys2Proof.Machine
end

section
/-! SUPPORT. SET PARTY (R28 to R31, R101): its checks, the record it stores, and the fold-back enable at the party's context. -/

namespace Sys2Proof.Machine

variable {s : State} {p : PartyIx} {r : PartyRec} {role : Role} {q : PortIx} {tag : Byte}

/-! ## The role check (R28) -/

/-- ENGINEERING may set any party, a studio a party of its own programme, selecting no other. -/
theorem setPartyAllowed_iff (sent : Option Programme) :
    setPartyAllowed role r sent = true ↔
      role = .engineering ∨ (role = .studio r.programme ∧ ∀ j, sent = some j → j = r.programme) := by
  cases role with
  | engineering => simp [setPartyAllowed]
  | screener => simp [setPartyAllowed]
  | studio k =>
    simp only [setPartyAllowed, Bool.and_eq_true, Bool.or_eq_true, beq_iff_eq, reduceCtorEq, false_or, Role.studio.injEq]
    constructor
    · rintro ⟨rfl, h⟩
      refine ⟨rfl, fun j hj => ?_⟩
      subst hj
      simpa using h
    · rintro ⟨rfl, h⟩
      refine ⟨rfl, ?_⟩
      cases sent with
      | none => exact .inl rfl
      | some j => exact .inr (congrArg some (h j rfl))

/-! ## The record stored (R29) -/

theorem programmeFree_iff (p : PartyIx) (st : PState) :
    programmeFree (kindOf p) st = true ↔
      (p.val < 16 ∧ st ∈ [PState.idle, .screen, .hold]) ∨ (16 ≤ p.val ∧ st ∈ [PState.offline, .standby]) := by
  by_cases hp : p.val < 16
  · rw [(kindOf_phone p).2 hp]
    cases st <;> simp [programmeFree, hp]
  · rw [(kindOf_codec p).2 (by omega)]
    cases st <;> simp [programmeFree, hp] <;> omega

/-- The programme stored, and adjusted where it is not the one sent. -/
theorem programmeStored_eq (p : PartyIx) (r : PartyRec) (j : Programme) :
    programmeStored p r j = (programmeKept p r j, decide (programmeKept p r j ≠ j)) := by
  unfold programmeStored programmeKept
  simp only [programmeFree_iff]
  split
  · simp
  · rw [Prod.mk.injEq]
    refine ⟨rfl, ?_⟩
    by_cases h : r.programme = j
    · simp [h]
    · simp [h, Ne.symm h]

/-- A stored setting that is selected may be adjusted, one that is not is never. -/
theorem store_adjusted {α : Type} (sel : Bool) (new : Stored α) (held : α) :
    (store sel new held).2 = true ↔ sel = true ∧ new.2 = true := by cases sel <;> simp [store]

theorem store_value {α : Type} (sel : Bool) (new : Stored α) (held : α) :
    (store sel new held).1 = if sel then new.1 else held := by cases sel <;> rfl

/-- The record SET PARTY stores, item by item, against the table of R29. -/
structure StoredAs (p : PartyIx) (r : PartyRec) (sl sg rg gr fb tm : Byte) (j : Programme) (new : PartyRec) : Prop where
  state : new.state = r.state
  changes : new.changes = r.changes
  sourceGain : new.sourceGain = if sl.getLsbD 0 then if sg.toNat ≤ 192 then sg else 255 else r.sourceGain
  returnGain : new.returnGain = if sl.getLsbD 1 then if rg.toNat ≤ 192 then rg else 255 else r.returnGain
  group : new.group.val = if sl.getLsbD 2 then min 8 gr.toNat else r.group.val
  foldBack : new.foldBack = if sl.getLsbD 3 then decide (fb ≠ 0) else r.foldBack
  toneMute : new.toneMute = if sl.getLsbD 4 then decide (tm ≠ 0) else r.toneMute
  programme : new.programme = if sl.getLsbD 5 then programmeKept p r j else r.programme
  echoMark : new.echoMark = if new.programme = r.programme then r.echoMark else none

theorem partyStored_as (p : PartyIx) (r : PartyRec) (sh sl sg rg gr fb tm : Byte) {j i : Programme}
    (hi : sl.getLsbD 5 = true → i = j) :
    StoredAs p r sl sg rg gr fb tm j (partyStored p r (selected sh sl) sg rg gr fb tm i).1 where
  state := rfl
  changes := rfl
  sourceGain := by rw [← selected_lt sh sl 0 (by omega)]; exact store_gain ..
  returnGain := by rw [← selected_lt sh sl 1 (by omega)]; exact store_gain ..
  group := by
    rw [← selected_lt sh sl 2 (by omega)]
    exact (congrArg Fin.val (store_value ..)).trans (apply_ite Fin.val ..)
  foldBack := by rw [← selected_lt sh sl 3 (by omega)]; exact store_flag ..
  toneMute := by rw [← selected_lt sh sl 4 (by omega)]; exact store_flag ..
  programme := by
    rw [← selected_lt sh sl 5 (by omega)] at hi ⊢
    refine (store_value ..).trans ?_
    rw [programmeStored_eq]
    split
    · next h => rw [hi h]
    · rfl
  echoMark := rfl

/-- SET PARTY answers ADJUSTED where a selected value was adjusted (R29, R184). -/
theorem partyStored_adjusted (p : PartyIx) (r : PartyRec) (sh sl sg rg gr fb tm : Byte) {j i : Programme}
    (hi : sl.getLsbD 5 = true → i = j) :
    (partyStored p r (selected sh sl) sg rg gr fb tm i).2 = true ↔
      (sl.getLsbD 2 ∧ 8 < gr.toNat) ∨ (sl.getLsbD 3 ∧ 1 < fb.toNat) ∨ (sl.getLsbD 4 ∧ 1 < tm.toNat) ∨
        (sl.getLsbD 5 ∧ programmeKept p r j ≠ j) := by
  have hkept : (sl.getLsbD 5 = true ∧ programmeKept p r i ≠ i) ↔ (sl.getLsbD 5 = true ∧ programmeKept p r j ≠ j) :=
    and_congr_right fun h => by rw [hi h]
  unfold partyStored
  simp only [Bool.or_eq_true, store_adjusted, selected_lt sh sl _ (by omega : 2 < 8), selected_lt sh sl _ (by omega : 3 < 8),
    selected_lt sh sl _ (by omega : 4 < 8), selected_lt sh sl _ (by omega : 5 < 8), programmeStored_eq, gainStored, groupStored,
    flagStored, decide_eq_true_eq, Bool.false_eq_true, and_false, false_or, or_assoc, hkept]
  rfl

/-! ## The fold-back enable (R101) -/

theorem foldBackEnabled_list (s : State) (p : PartyIx) (on : Bool) : (foldBackEnabled s p on).list = s.foldBacks[p].list := by
  unfold foldBackEnabled
  split
  · rfl
  · split
    · exact serve_list ..
    · rfl

theorem foldBackEnabled_same (s : State) (p : PartyIx) (on : Bool) (h : on = s.parties[p].foldBack) :
    foldBackEnabled s p on = s.foldBacks[p] := by unfold foldBackEnabled; rw [if_pos h]

theorem foldBackEnabled_off (s : State) (p : PartyIx) (h : s.parties[p].foldBack = true) :
    foldBackEnabled s p false = { s.foldBacks[p] with inService := none } := by
  unfold foldBackEnabled; rw [h]; rfl

theorem foldBackEnabled_on (s : State) (p : PartyIx) (h : s.parties[p].foldBack = false) :
    foldBackEnabled s p true = serve (priorityOf s) true s.parties[p].state.connected s.foldBacks[p] := by
  unfold foldBackEnabled; rw [h]; rfl

/-! ## The answers of SET PARTY -/

/-- SET PARTY with its checks passed: the store, and the record after it (R30, R31). -/
theorem setParty_stores {sh sl sg rg gr fb tm pr : Byte} {j : Programme}
    (hk : checked (selected sh sl 5) (programmeOf pr) s.parties[p].programme = some j)
    (ha : setPartyAllowed s.ports[q].role s.parties[p] (if selected sh sl 5 then some j else none) = true) :
    setParty q tag [0, byte p.val, sh, sl, sg, rg, gr, fb, tm, pr] s =
      reply q tag (okOr (partyStored p s.parties[p] (selected sh sl) sg rg gr fb tm j).2)
        (partyBody (storeParty p (partyStored p s.parties[p] (selected sh sl) sg rg gr fb tm j).1 s) p)
        (storeParty p (partyStored p s.parties[p] (selected sh sl) sg rg gr fb tm j).1 s) := by
  simp only [setParty, be_pay, hk, ha, if_true]

/-- SET PARTY from a role that may not set the party (R28). -/
theorem setParty_notAllowed {sh sl sg rg gr fb tm pr : Byte} {j : Programme}
    (hk : checked (selected sh sl 5) (programmeOf pr) s.parties[p].programme = some j)
    (ha : setPartyAllowed s.ports[q].role s.parties[p] (if selected sh sl 5 then some j else none) = false) :
    setParty q tag [0, byte p.val, sh, sl, sg, rg, gr, fb, tm, pr] s = reply q tag .notAllowed (partyBody s p) s := by
  simp only [setParty, be_pay, hk, ha, Bool.false_eq_true, if_false]

/-- SET PARTY that selects an undefined programme (R28). -/
theorem setParty_noProgramme {sh sl sg rg gr fb tm pr : Byte}
    (hk : checked (selected sh sl 5) (programmeOf pr) s.parties[p].programme = none) :
    setParty q tag [0, byte p.val, sh, sl, sg, rg, gr, fb, tm, pr] s = reply q tag .illegal (partyBody s p) s := by
  simp only [setParty, be_pay, hk]

/-- A SET PARTY that stores a record concerns its party alone. -/
theorem storeParty_onlyParty (p : PartyIx) (r : PartyRec) (s : State) : OnlyParty p s (storeParty p r s) where
  rest := by unfold storeParty raiseIf; split <;> rfl
  parties j hj := by rw [storeParty_party, if_neg hj]
  foldBacks j hj := by rw [storeParty_foldBack, if_neg hj]
  lines n _ := by rw [storeParty_lines]
  samples n := by rw [storeParty_lines]; exact ⟨rfl, rfl⟩

/-- The programme operand of SET PARTY, as checked: the one sent where it is selected. -/
theorem sentProgramme (held : Programme) {sh sl pr : Byte} {j : Programme} (hpr : sl.getLsbD 5 = true → pr = programmeCode j) :
    ∃ i, checked (selected sh sl 5) (programmeOf pr) held = some i ∧ (sl.getLsbD 5 = true → i = j) := by
  rw [selected_lt sh sl 5 (by omega)]
  cases h : sl.getLsbD 5 with
  | false => exact ⟨held, rfl, nofun⟩
  | true => exact ⟨j, by rw [hpr h]; exact prog_some j, fun _ => rfl⟩

/-- The event of a stored record: PARTY where a value changed (R30). -/
theorem flagIf_changed (x y : PartyRec) : flagIf (x != y) .party = flagIf (decide (x ≠ y)) .party := by
  congr 1
  rw [Bool.eq_iff_iff]
  simp

/-- What SET PARTY leaves at the context of its party, by the change of the fold-back enable (R101). -/
theorem foldBackEnabled_changes (s : State) (p : PartyIx) (on : Bool) :
    (foldBackEnabled s p on).list = s.foldBacks[p].list ∧
    (on = s.parties[p].foldBack → foldBackEnabled s p on = s.foldBacks[p]) ∧
    (s.parties[p].foldBack = true → on = false → (foldBackEnabled s p on).inService = none) ∧
    (s.parties[p].foldBack = false → on = true → s.foldBacks[p].inService = none →
      (∀ j, (foldBackEnabled s p on).inService = some j → Selected (priorityOf s) s.foldBacks[p].list j) ∧
      ((foldBackEnabled s p on).inService = none ↔ s.foldBacks[p].list = [] ∨ s.parties[p].state.connected = false)) := by
  refine ⟨foldBackEnabled_list s p on, foldBackEnabled_same s p on, ?_, ?_⟩
  · rintro h rfl
    rw [foldBackEnabled_off s p h]
  · rintro h rfl hidle
    rw [foldBackEnabled_on s p h]
    obtain ⟨hsel, hnone⟩ := serve_fresh (priorityOf s) true s.parties[p].state.connected s.foldBacks[p] hidle
    exact ⟨hsel, by rw [hnone]; simp⟩

/-- What an accepted SET PARTY leaves. -/
structure SetPartyDone (q : PortIx) (tag : Byte) (p : PartyIx) (sl sg rg gr fb tm : Byte) (j : Programme) (s t : State) : Prop where
  onlyParty : OnlyParty p s t
  lines : t.lines = s.lines
  handed : t.handed = s.handed
  record : StoredAs p s.parties[p] sl sg rg gr fb tm j t.parties[p]
  context : t.foldBacks[p] = foldBackEnabled s p t.parties[p].foldBack
  replied : Replied q tag
    (if (sl.getLsbD 2 ∧ 8 < gr.toNat) ∨ (sl.getLsbD 3 ∧ 1 < fb.toNat) ∨ (sl.getLsbD 4 ∧ 1 < tm.toNat) ∨
        (sl.getLsbD 5 ∧ programmeKept p s.parties[p] j ≠ j) then .adjusted else .ok)
    (partyBody t p) (flagIf (decide (t.parties[p] ≠ s.parties[p])) .party) s t

/-- A reply over a stored record. -/
theorem setPartyDone_reply {sl sg rg gr fb tm : Byte} {j : Programme} {stored : Stored PartyRec}
    (hstored : StoredAs p s.parties[p] sl sg rg gr fb tm j stored.1)
    (hadjusted : stored.2 = true ↔
      (sl.getLsbD 2 ∧ 8 < gr.toNat) ∨ (sl.getLsbD 3 ∧ 1 < fb.toNat) ∨ (sl.getLsbD 4 ∧ 1 < tm.toNat) ∨
        (sl.getLsbD 5 ∧ programmeKept p s.parties[p] j ≠ j)) :
    SetPartyDone q tag p sl sg rg gr fb tm j s
      (reply q tag (okOr stored.2) (partyBody (storeParty p stored.1 s) p) (storeParty p stored.1 s)) := by
  have hports := storeParty_ports p stored.1 s
  have hrecord : (storeParty p stored.1 s).parties[p] = stored.1 := by rw [storeParty_party, if_pos rfl]
  have hcontext : (storeParty p stored.1 s).foldBacks[p] = foldBackEnabled s p stored.1.foldBack := by
    rw [storeParty_foldBack, if_pos rfl]
  have honly := storeParty_onlyParty p stored.1 s
  have hlines := storeParty_lines s p stored.1
  have hhanded := storeParty_handed s p stored.1
  generalize storeParty p stored.1 s = u at *
  rw [← hrecord] at hstored hcontext hports
  rw [flagIf_changed] at hports
  rw [okOr_eq _ _ hadjusted]
  exact ⟨honly.withPorts _, hlines, hhanded, hstored, hcontext, replied_of_raised hports⟩

/-- Settles O21. -/
theorem setPartyStoresTheSelectedSettings : Obligations.SetPartyStoresTheSelectedSettings := by
  unfold Obligations.SetPartyStoresTheSelectedSettings
  refine ⟨fun s q tag p sh sl sg rg gr fb tm pr j hr hpr hrole => ?_, fun s q tag p sh sl sg rg gr fb tm pr j hr hpr hrole => ?_⟩
  · obtain ⟨i, hk, hi⟩ := sentProgramme (sh := sh) s.parties[p].programme hpr
    have hallowed : setPartyAllowed s.ports[q].role s.parties[p] (if selected sh sl 5 then some i else none) = true := by
      rw [setPartyAllowed_iff, selected_lt sh sl 5 (by omega)]
      refine hrole.imp_right (And.imp_right fun h k hk => ?_)
      split at hk
      · next h5 => cases hk; rw [hi h5, h h5]
      · cases hk
    have hexec := (live_of_released _ hr).trans (congrArg Host.Outcome.next (setParty_stores (tag := tag) (sg := sg) (rg := rg)
      (gr := gr) (fb := fb) (tm := tm) hk hallowed))
    have hdone := setPartyDone_reply (q := q) (tag := tag) (partyStored_as p s.parties[p] sh sl sg rg gr fb tm hi)
      (partyStored_adjusted p s.parties[p] sh sl sg rg gr fb tm hi)
    generalize reply q tag _ _ _ = t at hexec hdone
    obtain ⟨hlist, hsame, hoff, hon⟩ := foldBackEnabled_changes s p t.parties[p].foldBack
    rw [← hdone.context] at hlist hsame hoff hon
    have hr := hdone.record
    exact ⟨t, hexec, hdone.onlyParty, hdone.lines, hdone.handed, hr.state, hr.changes, hr.sourceGain, hr.returnGain, hr.group,
      hr.foldBack, hr.toneMute, hr.programme, hr.echoMark, hlist, hsame, hoff, hon, hdone.replied⟩
  · obtain ⟨i, hk, hi⟩ := sentProgramme (sh := sh) s.parties[p].programme hpr
    have hrefused : setPartyAllowed s.ports[q].role s.parties[p] (if selected sh sl 5 then some i else none) = false := by
      rw [← Bool.not_eq_true, setPartyAllowed_iff, selected_lt sh sl 5 (by omega)]
      rintro (heng | ⟨hstudio, hsent⟩)
      · rcases hrole with h | ⟨k, h, -⟩ <;> rw [heng] at h <;> cases h
      · rcases hrole with h | ⟨k, h, hk⟩ <;> rw [hstudio] at h <;> cases h
        rcases hk with hk | ⟨h5, hj⟩
        · exact hk rfl
        · exact hj ((hi h5).symm.trans (hsent i (if_pos h5)))
    exact ⟨_, (live_of_released _ hr).trans (congrArg _ (setParty_notAllowed hk hrefused)), rfl, replied_self ..⟩

end Sys2Proof.Machine
end

section
/-! SUPPORT. The operand checks of the control port commands: a payload of another length, or with an operand out of range, is answered
ILLEGAL without payload (R198 and the operand rules of each chapter). -/

namespace Sys2Proof.Machine

/-! ## What a defined field says of its byte -/

/-- A selected field of a command that passes its check is defined. -/
theorem checked_defined {α : Type} {sh sl : Byte} {n : Nat} {sent : Option α} {held v : α} (hn : n < 8)
    (h : checked (selected sh sl n) sent held = some v) (hs : sl.getLsbD n = true) : sent = some v := by
  rw [selected_lt sh sl n hn, hs] at h; exact h

theorem fin_lt {n m : Nat} {i : Fin n} (h : fin? n m = some i) : m < n := fin_val h ▸ i.isLt

variable {b : Byte}

theorem programmeOf_defined {j : Programme} (h : programmeOf b = some j) : b.toNat = 1 ∨ b.toNat = 2 := by
  unfold programmeOf at h; split at h
  · exact .inl ‹_›
  · exact .inr ‹_›
  · cases h

theorem triggerOf_defined {t : Option CellIx} (h : triggerOf b = some t) : b.toNat < 9 := by
  unfold triggerOf at h; split at h
  · omega
  · obtain ⟨c, hc, -⟩ := Option.map_eq_some_iff.1 h
    have := fin_lt hc
    omega

theorem keyActionOf_defined {a : Option Bool} (h : keyActionOf b = some a) : b.toNat < 3 := by
  unfold keyActionOf at h; split at h <;> first | omega | cases h

theorem holdFeedOf_defined {a : HoldFeed} (h : holdFeedOf b = some a) : b.toNat < 2 := by
  unfold holdFeedOf at h; split at h <;> first | omega | cases h

theorem memSizeOf_defined {a : MemSize} (h : memSizeOf b = some a) : b.toNat < 3 := by
  unfold memSizeOf at h; split at h <;> first | omega | cases h

theorem playModeOf_defined {a : PlayMode} (h : playModeOf b = some a) : b.toNat < 2 := by
  unfold playModeOf at h; split at h <;> first | omega | cases h

theorem meterModeOf_defined {a : MeterMode} (h : meterModeOf b = some a) : b.toNat < 3 := by
  unfold meterModeOf at h; split at h <;> first | omega | cases h

theorem supModeOf_defined {a : SupMode} (h : supModeOf b = some a) : b.toNat < 2 := by
  unfold supModeOf at h; split at h <;> first | omega | cases h

theorem filterOf_defined {a : CellFilter} (h : filterOf b = some a) : b.toNat < 3 := by
  unfold filterOf at h; split at h <;> first | omega | cases h

theorem polarityOf_defined {a : Bool} (h : polarityOf b = some a) : b.toNat < 2 := by
  unfold polarityOf at h; split at h <;> first | omega | cases h

theorem gpoSelOf_defined {a : GpoSel} (h : gpoSelOf b = some a) : b.toNat < 10 := by
  unfold gpoSelOf at h; split at h
  · omega
  · omega
  · obtain ⟨c, hc, -⟩ := Option.map_eq_some_iff.1 h
    have := fin_lt hc
    omega

/-! ## Payloads that are checked -/

/-- A command answers ILLEGAL without payload, and changes nothing else, unless its payload has the length given and no operand is
out of range. -/
def ChecksPayload (run : PortIx → Byte → List Byte → State → State) (len : Nat)
    (bad : (Nat → Nat) → (Nat → Nat → Prop) → Prop) : Prop :=
  ∀ q tag pl s, run q tag pl s = reply q tag .illegal [] s ∨
    (pl.length = len ∧ ¬ bad (fun i => (pl.getD i 0).toNat) (fun i n => (pl.getD i 0).getLsbD n = true))

/-- A command whose length alone is checked here. -/
abbrev ChecksLength (run : PortIx → Byte → List Byte → State → State) (len : Nat) : Prop :=
  ChecksPayload run len fun _ _ => False

theorem setParty_checks : ChecksPayload setParty 10 fun v _ => 24 ≤ v 0 * 256 + v 1 := by
  intro q tag pl s
  unfold setParty
  split
  · split
    · exact .inl rfl
    · next hp => exact .inr ⟨rfl, Nat.not_le.2 (fin_lt hp)⟩
  · exact .inl rfl

theorem key_checks : ChecksPayload keyCommand 2 fun v _ => 4 ≤ v 0 ∨ 3 ≤ v 1 := by
  intro q tag pl s
  unfold keyCommand
  split
  · split
    · next hk ha =>
      refine .inr ⟨rfl, ?_⟩
      rintro (h | h)
      · exact Nat.not_le.2 (fin_lt hk) h
      · exact Nat.not_le.2 (keyActionOf_defined ha) h
    · exact .inl rfl
  · exact .inl rfl

theorem setKey_checks :
    ChecksPayload setKey 11 fun v sel => 4 ≤ v 0 ∨ (sel 2 0 ∧ 16 ≤ v 3) ∨ (sel 2 5 ∧ 9 ≤ v 10) := by
  intro q tag pl s
  unfold setKey
  split
  · split
    · exact .inl rfl
    · next hk =>
      split
      · next hsource htrigger =>
        refine .inr ⟨rfl, ?_⟩
        rintro (h | ⟨hs, h⟩ | ⟨hs, h⟩)
        · exact Nat.not_le.2 (fin_lt hk) h
        · exact Nat.not_le.2 (fin_lt (checked_defined (by omega) hsource hs)) h
        · exact Nat.not_le.2 (triggerOf_defined (checked_defined (by omega) htrigger hs)) h
      · exact .inl rfl
  · exact .inl rfl

theorem setDelay_checks :
    ChecksPayload setDelay 12 fun v sel => (v 0 ≠ 1 ∧ v 0 ≠ 2) ∨ (sel 2 5 ∧ 2 ≤ v 10) ∨ (sel 2 6 ∧ 9 ≤ v 11) := by
  intro q tag pl s
  unfold setDelay
  split
  · split
    · exact .inl rfl
    · next hk =>
      split
      · next hmode htrigger =>
        refine .inr ⟨rfl, ?_⟩
        rintro (⟨h1, h2⟩ | ⟨hs, h⟩ | ⟨hs, h⟩)
        · exact (programmeOf_defined hk).elim h1 h2
        · exact Nat.not_le.2 (holdFeedOf_defined (checked_defined (by omega) hmode hs)) h
        · exact Nat.not_le.2 (triggerOf_defined (checked_defined (by omega) htrigger hs)) h
      · exact .inl rfl
  · exact .inl rfl

theorem dump_checks : ChecksPayload dump 1 fun v _ => v 0 ≠ 1 ∧ v 0 ≠ 2 := by
  intro q tag pl s
  unfold dump
  split
  · split
    · exact .inl rfl
    · next hk => exact .inr ⟨rfl, fun ⟨h1, h2⟩ => (programmeOf_defined hk).elim h1 h2⟩
  · exact .inl rfl

theorem setMemorySize_checks : ChecksPayload setMemorySize 1 fun v _ => 3 ≤ v 0 := by
  intro q tag pl s
  unfold setMemorySize
  split
  · split
    · exact .inl rfl
    · next hm => exact .inr ⟨rfl, Nat.not_le.2 (memSizeOf_defined hm)⟩
  · exact .inl rfl

theorem setPlayer_checks :
    ChecksPayload setPlayer 7 fun v sel => 4 ≤ v 0 ∨ (sel 2 2 ∧ 2 ≤ v 5) ∨ (sel 2 3 ∧ 9 ≤ v 6) := by
  intro q tag pl s
  unfold setPlayer
  split
  · split
    · exact .inl rfl
    · next hj =>
      split
      · next hmode htrigger =>
        refine .inr ⟨rfl, ?_⟩
        rintro (h | ⟨hs, h⟩ | ⟨hs, h⟩)
        · exact Nat.not_le.2 (fin_lt hj) h
        · exact Nat.not_le.2 (playModeOf_defined (checked_defined (by omega) hmode hs)) h
        · exact Nat.not_le.2 (triggerOf_defined (checked_defined (by omega) htrigger hs)) h
      · exact .inl rfl
  · exact .inl rfl

theorem setMetering_checks : ChecksPayload setMetering 5 fun v sel => sel 1 0 ∧ 3 ≤ v 2 := by
  intro q tag pl s
  unfold setMetering
  split
  · split
    · exact .inl rfl
    · next hmode =>
      exact .inr ⟨rfl, fun ⟨hs, h⟩ => Nat.not_le.2 (meterModeOf_defined (checked_defined (by omega) hmode hs)) h⟩
  · exact .inl rfl

theorem setSupervisor_checks : ChecksPayload setSupervisor 9 fun v sel => 8 ≤ v 0 ∨ (sel 2 2 ∧ 2 ≤ v 5) := by
  intro q tag pl s
  unfold setSupervisor
  split
  · split
    · exact .inl rfl
    · next hi =>
      split
      · exact .inl rfl
      · next hmode =>
        refine .inr ⟨rfl, ?_⟩
        rintro (h | ⟨hs, h⟩)
        · exact Nat.not_le.2 (fin_lt hi) h
        · exact Nat.not_le.2 (supModeOf_defined (checked_defined (by omega) hmode hs)) h
  · exact .inl rfl

theorem clearClips_checks : ChecksPayload clearClips 2 fun v _ => 71 ≤ v 0 ∨ v 1 = 0 ∨ 72 ≤ v 0 + v 1 := by
  intro q tag pl s
  unfold clearClips
  split
  · next first n =>
    split
    · refine .inr ⟨rfl, ?_⟩
      show ¬ (71 ≤ first.toNat ∨ n.toNat = 0 ∨ 72 ≤ first.toNat + n.toNat)
      omega
    · exact .inl rfl
  · exact .inl rfl

theorem setCell_checks :
    ChecksPayload setCell 11 fun v sel => 8 ≤ v 0 ∨ (sel 2 1 ∧ 46 ≤ v 4) ∨ (sel 2 2 ∧ 46 ≤ v 5) ∨ (sel 2 3 ∧ 46 ≤ v 6) ∨
      (sel 2 5 ∧ 3 ≤ v 8) ∨ (sel 2 7 ∧ 24 ≤ v 10) := by
  intro q tag pl s
  unfold setCell
  split
  · split
    · exact .inl rfl
    · next hc =>
      dsimp only
      split
      · next h0 h1 h2 hfilter hwatched =>
        refine .inr ⟨rfl, ?_⟩
        rintro (h | ⟨hs, h⟩ | ⟨hs, h⟩ | ⟨hs, h⟩ | ⟨hs, h⟩ | ⟨hs, h⟩)
        · exact Nat.not_le.2 (fin_lt hc) h
        · exact Nat.not_le.2 (fin_lt (checked_defined (by omega) h0 hs)) h
        · exact Nat.not_le.2 (fin_lt (checked_defined (by omega) h1 hs)) h
        · exact Nat.not_le.2 (fin_lt (checked_defined (by omega) h2 hs)) h
        · exact Nat.not_le.2 (filterOf_defined (checked_defined (by omega) hfilter hs)) h
        · exact Nat.not_le.2 (fin_lt (checked_defined (by omega) hwatched hs)) h
      · exact .inl rfl
  · exact .inl rfl

theorem setGpo_checks :
    ChecksPayload setGpo 5 fun v sel => 8 ≤ v 0 ∨ (sel 2 0 ∧ 10 ≤ v 3) ∨ (sel 2 1 ∧ 2 ≤ v 4) := by
  intro q tag pl s
  unfold setGpo
  split
  · split
    · exact .inl rfl
    · next hg =>
      split
      · next hselection hlow =>
        refine .inr ⟨rfl, ?_⟩
        rintro (h | ⟨hs, h⟩ | ⟨hs, h⟩)
        · exact Nat.not_le.2 (fin_lt hg) h
        · exact Nat.not_le.2 (gpoSelOf_defined (checked_defined (by omega) hselection hs)) h
        · exact Nat.not_le.2 (polarityOf_defined (checked_defined (by omega) hlow hs)) h
      · exact .inl rfl
  · exact .inl rfl

/-! ## Payloads whose length is checked -/

theorem setEventMask_checks : ChecksLength setEventMask 2 := by
  intro q tag pl s; unfold setEventMask; split
  · exact .inr ⟨rfl, id⟩
  · exact .inl rfl

theorem readParty_checks : ChecksLength readParty 2 := by
  intro q tag pl s; unfold readParty; split
  · exact .inr ⟨rfl, id⟩
  · exact .inl rfl

theorem stateCommand_checks (names : Bool) (allows : Role → Programme → Bool) (limited : Bool)
    (move : Kind → PState → Option PState) : ChecksLength (stateCommand names allows limited move) 4 := by
  intro q tag pl s; unfold stateCommand; split
  · exact .inr ⟨rfl, id⟩
  · exact .inl rfl

theorem setSend_checks : ChecksLength setSend 6 := by
  intro q tag pl s; unfold setSend; split
  · exact .inr ⟨rfl, id⟩
  · exact .inl rfl

theorem setMonitor_checks : ChecksLength setMonitor 1 := by
  intro q tag pl s; unfold setMonitor; split
  · exact .inr ⟨rfl, id⟩
  · exact .inl rfl

theorem readToneMemory_checks : ChecksLength readToneMemory 3 := by
  intro q tag pl s; unfold readToneMemory; split
  · exact .inr ⟨rfl, id⟩
  · exact .inl rfl

theorem playerCommand_checks (f : Player → Player × Result) : ChecksLength (playerCommand f) 1 := by
  intro q tag pl s; unfold playerCommand; split
  · exact .inr ⟨rfl, id⟩
  · exact .inl rfl

theorem setToneRoute_checks : ChecksLength setToneRoute 5 := by
  intro q tag pl s; unfold setToneRoute; split
  · exact .inr ⟨rfl, id⟩
  · exact .inl rfl

theorem setLineTiming_checks : ChecksLength setLineTiming 1 := by
  intro q tag pl s; unfold setLineTiming; split
  · exact .inr ⟨rfl, id⟩
  · exact .inl rfl

theorem setClock_checks : ChecksLength setClock 1 := by
  intro q tag pl s; unfold setClock; split
  · exact .inr ⟨rfl, id⟩
  · exact .inl rfl

/-! ## Runs of tone memory entries (R138) -/

/-- Whole entries take two bytes each. -/
theorem pairs_length {α : Type} (f : Byte → Byte → α) : ∀ {l : List Byte} {xs : List α}, pairs f l = some xs → l.length = 2 * xs.length
  | [], xs, h => by cases h; rfl
  | [_], xs, h => by cases h
  | a :: b :: rest, xs, h => by
    obtain ⟨ys, hys, rfl⟩ := Option.map_eq_some_iff.1 h
    have := pairs_length f hys
    simp only [List.length_cons]
    omega

theorem writeSteps_checks (q : PortIx) (tag : Byte) (pl : List Byte) (s : State) :
    writeSteps q tag pl s = reply q tag .illegal [] s ∨ ∃ n, 1 ≤ n ∧ n ≤ 60 ∧ pl.length = 1 + 2 * n := by
  unfold writeSteps
  split
  · next a rest =>
    split
    · next xs hxs =>
      split
      · next hn => exact .inr ⟨xs.length, hn.1, hn.2, by rw [List.length_cons, pairs_length _ hxs]; omega⟩
      · exact .inl rfl
    · exact .inl rfl
  · exact .inl rfl

theorem writePitches_checks (q : PortIx) (tag : Byte) (pl : List Byte) (s : State) :
    writePitches q tag pl s = reply q tag .illegal [] s ∨
      ((pl.getD 0 0).toNat < 32 ∧ ∃ n, 1 ≤ n ∧ n ≤ 32 ∧ pl.length = 1 + 2 * n) := by
  unfold writePitches
  split
  · next a rest =>
    split
    · next xs hi hxs =>
      split
      · next hn => exact .inr ⟨fin_lt hi, xs.length, hn.1, hn.2, by rw [List.length_cons, pairs_length _ hxs]; omega⟩
      · exact .inl rfl
    · exact .inl rfl
  · exact .inl rfl

/-! ## The answers -/

/-- A command that answers ILLEGAL without payload, outside RESET. -/
theorem illegal_answer {i : Instr} {q : PortIx} {tag : Byte} {s u : State} (hr : s.inReset = false) (hexec : exec i s = live s u)
    (hu : u = reply q tag .illegal [] s) :
    ∃ t, exec i s = .next t ∧ t = { s with ports := t.ports } ∧ Replied q tag .illegal [] 0 s t := by
  rw [hexec, live_of_released _ hr, hu]
  exact ⟨_, rfl, rfl, replied_self ..⟩

variable {c : PortIx → Byte → List Byte → Instr} {run : PortIx → Byte → List Byte → State → State} {len : Nat}
variable {bad : (Nat → Nat) → (Nat → Nat → Prop) → Prop} {s : State} {q : PortIx} {tag : Byte} {pl : List Byte}

theorem ChecksPayload.operands (h : ChecksPayload run len bad) (hexec : exec (c q tag pl) s = live s (run q tag pl s))
    (hr : s.inReset = false) (hbad : bad (fun i => (pl.getD i 0).toNat) (fun i n => (pl.getD i 0).getLsbD n = true)) :
    ∃ t, exec (c q tag pl) s = .next t ∧ t = { s with ports := t.ports } ∧ Replied q tag .illegal [] 0 s t :=
  illegal_answer hr hexec ((h q tag pl s).resolve_right fun hok => hok.2 hbad)

theorem ChecksPayload.length (h : ChecksPayload run len bad) (hexec : exec (c q tag pl) s = live s (run q tag pl s))
    (hr : s.inReset = false) (hlen : pl.length ≠ len) :
    ∃ t, exec (c q tag pl) s = .next t ∧ t = { s with ports := t.ports } ∧ Replied q tag .illegal [] 0 s t :=
  illegal_answer hr hexec ((h q tag pl s).resolve_right fun hok => hlen hok.1)

/-- Settles O54: each command by the lemma on its checks. -/
theorem wrongLengthsAndOperandsAreIllegal : Obligations.WrongLengthsAndOperandsAreIllegal := by
  unfold Obligations.WrongLengthsAndOperandsAreIllegal
  refine ⟨fun e he s q tag pl hr hbad => ?_, fun s q tag p sh sl sg rg gr fb tm k hr h5 h1 h2 => ?_,
    fun e he s q tag pl hr hlen => ?_, fun e he s q tag pl hr hlen => ?_⟩
  · simp only [List.mem_cons, List.not_mem_nil, or_false] at he
    rcases he with rfl | rfl | rfl | rfl | rfl | rfl | rfl | rfl | rfl | rfl | rfl | rfl | rfl
    · exact setParty_checks.operands rfl hr hbad
    · exact key_checks.operands rfl hr hbad
    · exact setKey_checks.operands rfl hr hbad
    · exact setDelay_checks.operands rfl hr hbad
    · exact dump_checks.operands rfl hr hbad
    · exact setMemorySize_checks.operands rfl hr hbad
    · exact setPlayer_checks.operands rfl hr hbad
    · exact setMetering_checks.operands rfl hr hbad
    · exact setSupervisor_checks.operands rfl hr hbad
    · exact clearClips_checks.operands rfl hr hbad
    · exact setCell_checks.operands rfl hr hbad
    · exact setGpo_checks.operands rfl hr hbad
    · exact illegal_answer hr rfl ((writePitches_checks q tag pl s).resolve_right fun hok => Nat.not_le.2 hok.1 hbad)
  · refine ⟨_, (live_of_released _ hr).trans (congrArg _ (setParty_noProgramme ?_)), rfl, replied_self ..⟩
    rw [selected_lt sh sl 5 (by omega), h5]
    exact programmeOf_none.2 ⟨h1, h2⟩
  · simp only [List.mem_cons, List.not_mem_nil, or_false] at he
    rcases he with rfl | rfl
    · exact illegal_answer hr rfl ((writeSteps_checks q tag pl s).resolve_right fun ⟨n, h1, h2, h⟩ => hlen n h1 h2 h)
    · exact illegal_answer hr rfl ((writePitches_checks q tag pl s).resolve_right fun ⟨_, n, h1, h2, h⟩ => hlen n h1 h2 h)
  · simp only [List.mem_cons, List.not_mem_nil, or_false] at he
    rcases he with rfl | rfl | rfl | rfl | rfl | rfl | rfl | rfl | rfl | rfl | rfl | rfl | rfl | rfl | rfl | rfl | rfl | rfl |
      rfl | rfl | rfl | rfl | rfl | rfl | rfl | rfl | rfl | rfl | rfl | rfl
    · exact setEventMask_checks.length rfl hr hlen
    · exact readParty_checks.length rfl hr hlen
    · exact setParty_checks.length rfl hr hlen
    iterate 7 exact (stateCommand_checks _ _ _ _).length rfl hr hlen
    · exact setSend_checks.length rfl hr hlen
    · exact setMonitor_checks.length rfl hr hlen
    · exact key_checks.length rfl hr hlen
    · exact setKey_checks.length rfl hr hlen
    · exact readToneMemory_checks.length rfl hr hlen
    · exact setPlayer_checks.length rfl hr hlen
    iterate 3 exact (playerCommand_checks _).length rfl hr hlen
    · exact setToneRoute_checks.length rfl hr hlen
    · exact setDelay_checks.length rfl hr hlen
    · exact dump_checks.length rfl hr hlen
    · exact setMemorySize_checks.length rfl hr hlen
    · exact setMetering_checks.length rfl hr hlen
    · exact setSupervisor_checks.length rfl hr hlen
    · exact clearClips_checks.length rfl hr hlen
    · exact setCell_checks.length rfl hr hlen
    · exact setGpo_checks.length rfl hr hlen
    · exact setLineTiming_checks.length rfl hr hlen
    · exact setClock_checks.length rfl hr hlen

end Sys2Proof.Machine
end

section
/-! SUPPORT. The logic cells (chapter 9): what the signals say of the publishing blocks, what a period-end event makes of the pins, the
cells and their consumers, and what a delivery makes of a pin. -/

namespace Sys2Proof.Machine

variable {s : State}

/-! ## The signals (R167) -/

theorem anyIn_iff (st : PState) : anyIn s st = true ↔ ∃ p : PartyIx, s.parties[p].state = st := by simp [anyIn]

theorem anyInOn_iff (st : PState) (k : Programme) :
    anyInOn s st k = true ↔ ∃ p : PartyIx, s.parties[p].state = st ∧ s.parties[p].programme = k := by simp [anyInOn]

/-- The busy signal of a key says that some party has it in service (R107). -/
theorem serving_iff (k : KeyIx) :
    decide (0 < servingCount s k) = true ↔ ∃ p : PartyIx, s.foldBacks[p].inService = some k := by
  simp [servingCount, List.countP_pos_iff]

theorem waiting_iff (st : PState) : st.waiting = true ↔ st = .hold ∨ st = .ready := by cases st <;> simp [PState.waiting]

theorem not_idle_iff (st : PlayerState) : (st != .idle) = true ↔ st = .playing ∨ st = .stopping := by cases st <;> decide

theorem dumping_iff (st : DelayState) : st.dumping = true ↔ st = .dumpOut ∨ st = .dumpIn := by
  cases st <;> simp [DelayState.dumping]

/-- No signal is read from the ports. -/
theorem signal_ports (v : Vector Port 3) (c : CellIx) (n : SignalIx) : signal { s with ports := v } c n = signal s c n := rfl

/-! ## The pins sampled (R166) -/

variable (pins : Vector Bool 8)

/-- The state with the pins sampled, before GPI is raised. -/
theorem samplePins_rest : samplePins pins s = { s with gpis := (samplePins pins s).gpis, ports := (samplePins pins s).ports } := by
  unfold samplePins
  cases (List.finRange 8).any fun n => filtered (pushSample pins[n] s.gpis[n]) != filtered s.gpis[n] <;> rfl

theorem samplePins_gpi (n : PinIx) : (samplePins pins s).gpis[n] = pushSample pins[n] s.gpis[n] := by simp [samplePins]

/-- GPI is raised exactly where the filtered value of some pin changes. -/
theorem samplePins_changes :
    ((List.finRange 8).any fun n => filtered (pushSample pins[n] s.gpis[n]) != filtered s.gpis[n]) =
      decide (∃ n : PinIx, filtered (samplePins pins s).gpis[n] ≠ filtered s.gpis[n]) := by
  simp only [samplePins_gpi]
  rw [Bool.eq_iff_iff]
  simp

theorem signal_sampled (c : CellIx) (n : SignalIx) :
    signal (samplePins pins s) c n = signal { s with gpis := (samplePins pins s).gpis } c n  :=
  (congrArg (signal · c n) (samplePins_rest pins)).trans
    (signal_ports (s := { s with gpis := (samplePins pins s).gpis }) _ c n)

/-! ## The cells evaluated (R168 to R173) -/

theorem evaluateCells_cell (c : CellIx) : (evaluateCells s).cells[c] = cellAfter s c := by simp [evaluateCells, hand]

/-- What an evaluation hands on: for every changed output, a delivery to each consumer that selects the cell (R174). -/
def deliveries (s : State) : List Instr :=
  (List.finRange 8).flatMap fun c =>
    if (cellAfter s c).output = s.cells[c].output then [] else deliveriesOf s c (cellAfter s c).output

theorem evaluateCells_handed : (evaluateCells s).handed = s.handed ++ deliveries s := rfl

theorem mem_deliveriesOf (c : CellIx) (out : Bool) (i : Instr) :
    i ∈ deliveriesOf s c out ↔
      (∃ k : KeyIx, s.keys[k].trigger = some c ∧ i = .keyTrigger k c out) ∨
      (∃ j : PlayerIx, s.players[j].trigger = some c ∧ i = .playerTrigger j c out) ∨
      (∃ d : Programme, s.delays[d].trigger = some c ∧ i = .delayTrigger d c out) ∨
      ∃ g : PinIx, s.gpos[g].selection = .cell c ∧ i = .gpoDelivery g c out := by
  simp [deliveriesOf, or_assoc, eq_comm (a := i)]

theorem mem_deliveries (i : Instr) :
    i ∈ deliveries s ↔ ∃ c : CellIx, (cellAfter s c).output ≠ s.cells[c].output ∧ i ∈ deliveriesOf s c (cellAfter s c).output := by
  simp only [deliveries, List.mem_flatMap, List.mem_finRange, true_and]
  refine exists_congr fun c => ?_
  split <;> simp_all

/-- The entry of the truth table that the three inputs select (R170). -/
theorem tableIndex (a b c : Bool) :
    a.toNat * 4 + b.toNat * 2 + c.toNat = (if a then 4 else 0) + (if b then 2 else 0) + (if c then 1 else 0) := by
  cases a <;> cases b <;> cases c <;> rfl

theorem cellResult_sampled (c : CellIx) :
    cellResult (samplePins pins s) c = s.cells[c].table.getLsbD
      ((if signal { s with gpis := (samplePins pins s).gpis } c s.cells[c].in2 then 4 else 0) +
        (if signal { s with gpis := (samplePins pins s).gpis } c s.cells[c].in1 then 2 else 0) +
        (if signal { s with gpis := (samplePins pins s).gpis } c s.cells[c].in0 then 1 else 0)) := by
  simp only [cellResult, samplePins_cells, signal_sampled, tableIndex]

/-! ## A delivery to a pin (R175) -/

theorem gpoDelivery_rest (g : PinIx) (c : CellIx) (out : Bool) :
    gpoDelivery g c out s = { s with gpos := (gpoDelivery g c out s).gpos } := by unfold gpoDelivery; split <;> rfl

theorem gpoDelivery_others (g : PinIx) (c : CellIx) (out : Bool) : SameBut g s.gpos (gpoDelivery g c out s).gpos := by
  unfold gpoDelivery; split
  · exact sameBut_set _ _ _
  · exact fun _ _ => rfl

theorem gpoDelivery_pin (g : PinIx) (c : CellIx) (out : Bool) :
    (gpoDelivery g c out s).gpos[g] =
      if s.gpos[g].selection = .cell c then { s.gpos[g] with active := out } else s.gpos[g] := by
  unfold gpoDelivery; split <;> simp

/-! ## The period-end event -/

theorem lcPeriod_rest : evaluateCells (samplePins pins s) =
    { s with
      gpis := (evaluateCells (samplePins pins s)).gpis, cells := (evaluateCells (samplePins pins s)).cells,
      handed := (evaluateCells (samplePins pins s)).handed, ports := (evaluateCells (samplePins pins s)).ports } := by
  have h := samplePins_rest pins (s := s)
  generalize samplePins pins s = u at h ⊢
  rw [h]; rfl

theorem lcPeriod_raised : Raised
    (flagIf (decide (∃ n : PinIx, filtered (samplePins pins s).gpis[n] ≠ filtered s.gpis[n])) .gpi) s
    (evaluateCells (samplePins pins s)) := by
  rw [← samplePins_changes]
  exact raised_of_ports (lcPeriod_ports pins s)

end Sys2Proof.Machine
end

section
/-! OBLIGATIONS. The period-end event of the logic cells. -/

namespace Sys2Proof.Machine

/-- Settles O50: the cells by the case split of `cellAfter`, the signals number by number. -/
theorem periodEndEvaluatesTheCells : Obligations.PeriodEndEvaluatesTheCells := by
  refine ⟨fun s pins hr => ⟨_, live_of_released _ hr, lcPeriod_rest pins, fun n => ?gpis, ?raised, fun c => ?cells, ?handed⟩,
    fun s c => ?signals, fun s g c out hr => ⟨_, live_of_released _ hr, ?rest, ?others, ?pin, ?level⟩⟩
  case gpis => rw [evaluateCells_gpis]; exact samplePins_gpi pins n
  case raised => rw [evaluateCells_gpis]; exact lcPeriod_raised pins
  case cells =>
    rw [evaluateCells_cell, evaluateCells_gpis]
    intro x now result f
    have hresult : cellResult (samplePins pins s) c = result := cellResult_sampled pins c
    have hf : filterResult x result = f := rfl
    rw [cellAfter, samplePins_cells, hresult, evaluateCell, hf]; rfl
  case handed =>
    refine ⟨deliveries (samplePins pins s), by rw [evaluateCells_handed, samplePins_handed], fun i => ?_⟩
    simp only [mem_deliveries, mem_deliveriesOf, evaluateCells_cell, samplePins_cells, samplePins_keys, samplePins_players,
      samplePins_delays, samplePins_gpos]
  case signals =>
    intro on
    refine ⟨rfl, rfl, rfl, fun g => ?_, anyIn_iff .ringing, fun k => ?_, fun k => ?_, anyIn_iff .screen, beq_iff_eq, waiting_iff _,
      fun k => ?_, fun k => ?_, fun j => ?_, fun n => ?_, fun k => ?_, fun k => ?_, fun k => ?_, beq_iff_eq⟩
    · fin_cases g <;> rfl
    · fin_cases k <;> exact anyInOn_iff ..
    · fin_cases k <;> exact anyInOn_iff ..
    · fin_cases k <;> rfl
    · fin_cases k <;> exact serving_iff _
    · fin_cases j <;> exact not_idle_iff _
    · fin_cases n <;> rfl
    · fin_cases k <;> exact delay_on _
    · fin_cases k <;> exact dumping_iff _
    · fin_cases k <;> exact beq_iff_eq
  case rest => exact gpoDelivery_rest g c out
  case others => exact gpoDelivery_others g c out
  case pin => exact gpoDelivery_pin g c out
  case level => rfl

end Sys2Proof.Machine
end

section
/-! SUPPORT. The keys, pins, cells, lines, links, clock and reply slots as one part of the state, its condition item by item, and what each
item that a command stores owes to it (R35, R93, R166, R173, R175, R183, R194). -/

namespace Sys2Proof.Machine

/-! ## The conditions item by item -/

/-- The condition of KeysOk on one key. -/
structure KeyOk (x : Key) : Prop where
  active : x.active = (x.latches[0] || x.latches[1] || x.latches[2] || x.triggerOut)
  trigger : x.trigger = none → x.triggerOut = false
  gains : gainOk x.duck ∧ gainOk x.talk

/-- The condition of LogicOk on one GPO pin. -/
def GpoOk (g : Gpo) : Prop := ∀ b, g.selection = .const b → g.active = b

/-- The condition of LogicOk on one cell. -/
def CellOk (x : Cell) : Prop :=
  x.enable = false → x.restart = false → x.held = false ∧ x.filtered = false ∧ x.previous = false ∧ x.output = false

/-- The condition of LinesOk on one line. -/
structure LineOk (c : LineCtx) : Prop where
  samples : c.ring.length ≤ 3 ∧ c.loop.length ≤ 3
  counts : c.ringCount ≤ 9000 ∧ c.answerCount ≤ 3000 ∧ c.dropCount ≤ 900 ∧ c.clearingCount ≤ 750

/-- The condition of LinesOk on one link. -/
def LinkOk (c : LinkCtx) : Prop := c.link.length ≤ 3 ∧ c.valid.length ≤ 3

/-- The condition of SlotsOk on one slot. -/
def SlotOk (x : Slot) : Prop := x.body.length ≤ 124

/-! ## The part of the state that they are about -/

/-- The keys, the logic cells with their pins, the lines and links, the clock and the reply slots. -/
structure Control where
  keys : Vector Key 4
  gpis : Vector (List Bool) 8
  gpos : Vector Gpo 8
  cells : Vector Cell 8
  lines : Vector LineCtx 16
  links : Vector LinkCtx 8
  clock : Clock
  slot : PortIx → Slot

/-- That part of a state. -/
def controlOf (s : State) : Control :=
  { keys := s.keys, gpis := s.gpis, gpos := s.gpos, cells := s.cells, lines := s.lines, links := s.links, clock := s.clock
    slot := fun q => s.ports[q].slot }

/-- Every item meets its condition. -/
structure Control.Ok (v : Control) : Prop where
  keys : ∀ k : KeyIx, KeyOk v.keys[k]
  gpis : ∀ n : PinIx, v.gpis[n].length ≤ 3
  gpos : ∀ g : PinIx, GpoOk v.gpos[g]
  cells : ∀ c : CellIx, CellOk v.cells[c]
  lines : ∀ n : LineIx, LineOk v.lines[n]
  links : ∀ n : LinkIx, LinkOk v.links[n]
  clock : ClockOk v.clock
  slots : ∀ q : PortIx, SlotOk (v.slot q)

/-- The condition on that part of a state. -/
abbrev ControlOk (s : State) : Prop := (controlOf s).Ok

/-- It is the five conditions together. -/
theorem controlOk_iff (s : State) :
    ControlOk s ↔ KeysOk s ∧ LogicOk s ∧ LinesOk s ∧ ClockOk s.clock ∧ SlotsOk s := by
  constructor
  · intro h
    exact ⟨⟨fun k => (h.keys k).active, fun k => (h.keys k).trigger, fun k => (h.keys k).gains⟩, ⟨h.gpis, h.gpos, h.cells⟩,
      ⟨fun n => (h.lines n).samples, h.links, fun n => (h.lines n).counts⟩, h.clock, h.slots⟩
  · rintro ⟨hkeys, hlogic, hlines, hclock, hslots⟩
    exact ⟨fun k => ⟨hkeys.active k, hkeys.trigger k, hkeys.gains k⟩, hlogic.samples, hlogic.constant, hlogic.off,
      fun n => ⟨hlines.samples n, hlines.counts n⟩, hlines.links, hclock, hslots⟩

variable {s t : State}

/-- A state that agrees on that part meets the condition too. -/
theorem ControlOk.of_control (hs : ControlOk s) (h : controlOf t = controlOf s) : ControlOk t := by
  unfold ControlOk; rw [h]; exact hs

/-- A live command has its effect, or none while RESET is asserted. -/
theorem ControlOk.of_live {e : State} (hs : ControlOk s) (h : live s e = .next t) (he : ControlOk e) : ControlOk t := by
  rw [live_next] at h
  split at h
  · exact h ▸ hs
  · exact h ▸ he

/-- A row that is a case of another event keeps what that event keeps. -/
theorem ControlOk.of_case (hs : ControlOk s) (b : Prop) [Decidable b] (ht : ControlOk t) : ControlOk (if b then t else s) := by
  split <;> assumption

/-! ## Items stored -/

/-- What holds of every item holds after one that has it is set. -/
theorem forall_set {α : Type} {n : Nat} {P : α → Prop} {v : Vector α n} {i : Fin n} {x : α} (h : ∀ j : Fin n, P v[j]) (hx : P x) :
    ∀ j : Fin n, P (v.set i x)[j] := by
  intro j
  rw [set_get]
  split
  · exact hx
  · exact h j

/-- What every value of a function has, every item of its vector has. -/
theorem forall_ofFn {α : Type} {n : Nat} {P : α → Prop} {f : Fin n → α} (h : ∀ j, P (f j)) (j : Fin n) : P (Vector.ofFn f)[j] := by
  rw [ofFn_get]; exact h j

/-! A state that differs from another by one item stored, in this part. -/

theorem ControlOk.withKey (hs : ControlOk s) {k : KeyIx} {x : Key} (h : controlOf t = { controlOf s with keys := s.keys.set k x })
    (hx : KeyOk x) : ControlOk t := by
  unfold ControlOk; rw [h]; exact { hs with keys := forall_set hs.keys hx }

theorem ControlOk.withGpo (hs : ControlOk s) {g : PinIx} {x : Gpo} (h : controlOf t = { controlOf s with gpos := s.gpos.set g x })
    (hx : GpoOk x) : ControlOk t := by
  unfold ControlOk; rw [h]; exact { hs with gpos := forall_set hs.gpos hx }

theorem ControlOk.withCell (hs : ControlOk s) {c : CellIx} {x : Cell}
    (h : controlOf t = { controlOf s with cells := s.cells.set c x }) (hx : CellOk x) : ControlOk t := by
  unfold ControlOk; rw [h]; exact { hs with cells := forall_set hs.cells hx }

theorem ControlOk.withLine (hs : ControlOk s) {n : LineIx} {x : LineCtx}
    (h : controlOf t = { controlOf s with lines := s.lines.set n x }) (hx : LineOk x) : ControlOk t := by
  unfold ControlOk; rw [h]; exact { hs with lines := forall_set hs.lines hx }

theorem ControlOk.withClock (hs : ControlOk s) {c : Clock} (h : controlOf t = { controlOf s with clock := c }) (hc : ClockOk c) :
    ControlOk t := by
  unfold ControlOk; rw [h]; exact { hs with clock := hc }

/-! ## The ports -/

/-- New ports with the slots of those before. -/
theorem ports_control {x : Vector Port 3} (h : ∀ q : PortIx, x[q].slot = s.ports[q].slot) :
    controlOf { s with ports := x } = controlOf s :=
  congrArg (fun f : PortIx → Slot => { controlOf s with slot := f }) (funext h)

/-- Raised flags leave every slot (R188). -/
theorem raiseIf_control (b : Bool) (e : Event) (s : State) : controlOf (raiseIf b e s) = controlOf s :=
  (congrArg controlOf (raiseIf_changes s b e)).trans (ports_control fun q => by rw [raiseIf_ports])

theorem raise_control (e : Event) (s : State) : controlOf (raise e s) = controlOf s := raiseIf_control true e s

/-- A reply within 124 bytes (R183). A body written out has its length by computation. -/
theorem ControlOk.reply (hs : ControlOk s) {q : PortIx} {tag : Byte} {r : Result} {body : List Byte}
    (hb : body.length ≤ 124 := by exact Nat.le_of_ble_eq_true rfl) : ControlOk (reply q tag r body s) :=
  { hs with
    slots := fun j => by
      show SlotOk (Machine.reply q tag r body s).ports[j].slot
      rw [reply_ports]
      split
      · exact hb
      · exact hs.slots j }

/-- The answer of a command that stores nothing in that part: a reply within 124 bytes over a state that agrees on it. -/
theorem ControlOk.answer (hs : ControlOk s) {q : PortIx} {tag : Byte} {r : Result} {body : List Byte} (h : controlOf t = controlOf s)
    (hb : body.length ≤ 124 := by exact Nat.le_of_ble_eq_true rfl) : ControlOk (Machine.reply q tag r body t) :=
  (hs.of_control h).reply hb

/-- One port replaced by one with the same slot. -/
theorem setPort_control (q : PortIx) (x : Port) (h : x.slot = s.ports[q].slot) :
    controlOf { s with ports := s.ports.set q x } = controlOf s := by
  refine ports_control fun j => ?_
  rw [set_get]
  split
  · next hj => rw [h, hj]
  · rfl

end Sys2Proof.Machine
end

section
/-! SUPPORT. Each command against the condition on keys, logic, lines, clock and slots: the items it stores in that part, and the
length of its reply. -/

namespace Sys2Proof.Machine

variable {s : State} {q : PortIx} {tag : Byte} {pl : List Byte}

/-! ## Keys (R93 to R95, R104, R105) -/

/-- A key is wanted as its latches and trigger output say, where a key without a trigger cell holds the output 0 (R93). -/
theorem wanted_eq (x : Key) (h : x.trigger = none → x.triggerOut = false) :
    x.wanted = (x.latches[0] || x.latches[1] || x.latches[2] || x.triggerOut) := by
  unfold Key.wanted
  cases ht : x.trigger with
  | none => rw [h ht]; rfl
  | some c => rfl

/-- A key stored with its active flag re-formed meets its condition. -/
theorem keyOk_reformed {x : Key} (ht : x.trigger = none → x.triggerOut = false) (hg : gainOk x.duck ∧ gainOk x.talk) :
    KeyOk { x with active := x.wanted } := ⟨wanted_eq x ht, ht, hg⟩

/-- A key stored reaches the request lists beside the keys, and those are not of this part. -/
theorem ControlOk.storeKey (hs : ControlOk s) (k : KeyIx) {x : Key} (hx : KeyOk x) : ControlOk (storeKey k x s) := hs.withKey rfl hx

theorem ControlOk.key (hs : ControlOk s) : ControlOk (keyCommand q tag pl s) := by
  unfold keyCommand
  split
  · split
    · next k _ _ _ =>
      split
      · exact hs.reply
      · split
        · exact hs.reply
        · refine (hs.storeKey k (keyOk_reformed ?_ ?_)).reply
          · exact (hs.keys k).trigger
          · exact (hs.keys k).gains
    · exact hs.reply
  · exact hs.reply

/-- A trigger cell that is stored as none holds the output 0 (R105). -/
theorem triggerOutAfter_none {old : Option CellIx} {held : Bool} (h : old = none → held = false) :
    triggerOutAfter s old none held = false := by
  unfold triggerOutAfter
  split
  · next hn => exact h hn.symm
  · rfl

theorem ControlOk.setKey (hs : ControlOk s) : ControlOk (setKey q tag pl s) := by
  unfold Machine.setKey
  split
  · split
    · exact hs.reply
    · next k _ =>
      split
      · split
        · refine (hs.storeKey k (keyOk_reformed ?_ ?_)).reply
          · rintro rfl
            exact triggerOutAfter_none (hs.keys k).trigger
          · exact ⟨store_gainOk _ _ _ (hs.keys k).gains.1, store_gainOk _ _ _ (hs.keys k).gains.2⟩
        · exact hs.reply
      · exact hs.reply
  · exact hs.reply

theorem ControlOk.took (hs : ControlOk s) (i : Instr) : ControlOk (took i s) := hs

theorem ControlOk.keyTrigger (hs : ControlOk s) (k : KeyIx) (c : CellIx) (out : Bool) : ControlOk (keyTrigger k c out s) := by
  unfold Machine.keyTrigger
  split
  · next hc =>
    refine hs.storeKey k (keyOk_reformed (fun hn => ?_) (hs.keys k).gains)
    rw [show s.keys[k].trigger = none from hn] at hc
    cases hc
  · exact hs

/-! ## Cells and pins (R166, R173, R175 to R177) -/

theorem pushSample_length (b : Bool) (h : List Bool) : (pushSample b h).length ≤ 3 := List.length_take_le _ _

/-- A cell keeps its condition at a period-end event: one that is off and restarts goes to 0, one that is off stands (R173). -/
theorem CellOk.after (c : CellIx) (h : CellOk s.cells[c]) : CellOk (cellAfter s c) := by
  unfold cellAfter
  split
  · intro hoff _
    have hoff : s.cells[c].enable = false := hoff
    exact ⟨Bool.and_eq_false_imp.2 fun hon => absurd hon (by rw [hoff]; nofun), rfl, rfl, rfl⟩
  · split
    · next hon =>
      intro hoff
      have hoff : s.cells[c].enable = false := hoff
      rw [hon] at hoff; cases hoff
    · exact h

theorem ControlOk.lcPeriod (hs : ControlOk s) (pins : Vector Bool 8) : ControlOk (evaluateCells (samplePins pins s)) := by
  have hsampled : ControlOk (samplePins pins s) :=
    ControlOk.of_control (s := { s with gpis := Vector.ofFn fun n : PinIx => pushSample pins[n] s.gpis[n] })
      { hs with gpis := forall_ofFn (P := fun h : List Bool => h.length ≤ 3) fun _ => pushSample_length _ _ } (raiseIf_control _ _ _)
  exact { hsampled with cells := forall_ofFn fun c => (hsampled.cells c).after c }

theorem ControlOk.gpoDelivery (hs : ControlOk s) (g : PinIx) (c : CellIx) (out : Bool) : ControlOk (gpoDelivery g c out s) := by
  unfold Machine.gpoDelivery
  split
  · next hc =>
    refine hs.withGpo (g := g) rfl fun b hb => ?_
    rw [show s.gpos[g].selection = .const b from hb] at hc
    cases hc
  · exact hs

theorem ControlOk.setGpo (hs : ControlOk s) : ControlOk (setGpo q tag pl s) := by
  unfold Machine.setGpo
  split
  · next sh sl sel pol =>
    split
    · exact hs.reply
    · next g _ =>
      split
      · next selection low hsel _ =>
        split
        · refine (hs.withGpo (g := g) rfl fun b hb => ?_).reply
          obtain rfl : selection = .const b := hb
          show (if selected sh sl 0 then b else s.gpos[g].active) = b
          split
          · rfl
          · next hkept =>
            rw [Bool.eq_false_iff.2 hkept] at hsel
            exact hs.gpos g b (Option.some.inj hsel)
        · exact hs.reply
      · exact hs.reply
  · exact hs.reply

/-- A cell stored anew restarts, unless it is stored as it stood (R173, R176). -/
theorem CellOk.stored {x y z : Cell} (hx : CellOk x) (hr : z.restart = (x.restart || y != x))
    (hy : y = { z with restart := y.restart }) : CellOk z := by
  intro hoff hrestart
  rw [hrestart] at hr
  obtain ⟨hr, hyx⟩ : x.restart = false ∧ y = x := by simpa using hr.symm
  have hz : CellOk { z with restart := y.restart } := by rw [← hy, hyx]; exact hx
  exact hz hoff (hyx ▸ hr)

theorem ControlOk.setCell (hs : ControlOk s) : ControlOk (setCell q tag pl s) := by
  unfold Machine.setCell
  split
  · split
    · exact hs.reply
    · next c _ =>
      dsimp only
      split
      · split
        · refine (hs.withCell (c := c) rfl ?_).reply
          exact (hs.cells c).stored rfl rfl
        · exact hs.reply
      · exact hs.reply
  · exact hs.reply

/-! ## Lines and links (R35 to R44) -/

theorem LineOk.change {c : LineCtx} (h : LineOk c) (old new : PState) : LineOk (lineChange old new c) := by
  obtain ⟨hsamples, hring, hanswer, hdrop, hclearing⟩ := h
  unfold lineChange
  split
  case h_6 => exact ⟨hsamples, hring, hanswer, hdrop, hclearing⟩
  case h_5 =>
    split
    · exact ⟨hsamples, by dsimp only; omega⟩
    · exact ⟨hsamples, hring, hanswer, hdrop, hclearing⟩
  all_goals exact ⟨hsamples, by dsimp only; omega⟩

theorem LineOk.evaluated {c : LineCtx} (h : LineOk c) (p : PartyIx) (st : PState) (limit : Nat) :
    LineOk (evaluateLine p st limit c).1 := by
  obtain ⟨hsamples, hring, hanswer, hdrop, hclearing⟩ := h
  unfold evaluateLine ringLimit answerLimit clearingLimit dropMax
  split
  all_goals repeat' split
  all_goals exact ⟨hsamples, by simp only; omega⟩

theorem ControlOk.onLine (hs : ControlOk s) (p : PartyIx) {f : LineCtx → LineCtx} (hf : ∀ c, LineOk c → LineOk (f c)) :
    ControlOk (onLine p f s) := by
  unfold Machine.onLine
  split
  · next hp => exact hs.withLine (n := ⟨p.val, hp⟩) rfl (hf _ (hs.lines ⟨p.val, hp⟩))
  · exact hs

theorem ControlOk.changeState (hs : ControlOk s) (p : PartyIx) (st : PState) (k : Programme) : ControlOk (changeState p st k s) := by
  have hrecord : ControlOk { s with
      parties := s.parties.set p (recordAfter s p st k), foldBacks := s.foldBacks.set p (foldBackAfter s p s.parties[p].state st) } := hs
  exact (hrecord.onLine p fun _ hc => hc.change _ _).of_control (raise_control _ _)

theorem ControlOk.stateCommand (hs : ControlOk s) (names : Bool) (allows : Role → Programme → Bool) (limited : Bool)
    (move : Kind → PState → Option PState) : ControlOk (stateCommand names allows limited move q tag pl s) := by
  unfold Machine.stateCommand
  split
  · split
    · exact hs.reply
    · split
      · exact hs.reply
      · exact (hs.changeState _ _ _).reply
  · exact hs.reply

theorem ControlOk.applyCause (hs : ControlOk s) (kind : Kind) (froms : List PState) (next : PState) (ev : Option Event) (p : PartyIx) :
    ControlOk (applyCause kind froms next ev p s) := by
  unfold Machine.applyCause
  split
  · cases ev with
    | none => exact hs.changeState _ _ _
    | some e => exact (hs.changeState _ _ _).of_control (raise_control _ _)
  · exact hs

theorem ControlOk.sampled (hs : ControlOk s) (aux : AuxIn) : ControlOk (sampleAll aux s) :=
  { hs with
    lines := forall_ofFn fun n => ⟨⟨pushSample_length _ _, pushSample_length _ _⟩, (hs.lines n).counts⟩
    links := forall_ofFn fun _ => ⟨pushSample_length _ _, pushSample_length _ _⟩ }

theorem ControlOk.evaluated (hs : ControlOk s) (p : PartyIx) : ControlOk (evaluateParty p s) := by
  unfold evaluateParty
  split
  · next hp =>
    exact (hs.withLine (n := ⟨p.val, hp⟩) rfl ((hs.lines ⟨p.val, hp⟩).evaluated p _ _)).of_control (raiseIf_control _ _ _)
  · exact hs

/-! ## The clock (R194 to R196) -/

theorem ClockOk.judged {c : Clock} (h : ClockOk c) (valid : Bool) : ClockOk (judged c valid).1 := by
  obtain ⟨hexponent, hsettle, hrelock, -, -⟩ := h
  have hpow : 2 ^ c.exponent ≤ 4096 := Nat.pow_le_pow_right (n := 2) (by omega) hexponent.2
  unfold Machine.judged
  cases hl : c.lock with
  | freeRun =>
    have hzero : c.settle = 0 := by simpa [hl] using hrelock
    cases valid
    · exact ⟨hexponent, hsettle, by simp [hzero], nofun, nofun⟩
    · exact ⟨hexponent, hpow, by simp, nofun, nofun⟩
  | locked =>
    have hzero : c.settle = 0 := by simpa [hl] using hrelock
    cases valid
    · exact ⟨hexponent, hsettle, by simp [hzero], nofun, nofun⟩
    · exact ⟨hexponent, hsettle, by simp [hzero], nofun, nofun⟩
  | relock =>
    cases valid
    · exact ⟨hexponent, Nat.zero_le _, by simp, fun _ => rfl, nofun⟩
    · simp only [if_true]
      split
      · exact ⟨hexponent, Nat.zero_le _, by simp, nofun, fun _ => rfl⟩
      · exact ⟨hexponent, by dsimp only; omega, by simp; omega, nofun, nofun⟩

theorem ControlOk.judge (hs : ControlOk s) (edges : Nat) : ControlOk (judge edges s) :=
  (hs.withClock (t := { s with clock := (judged s.clock (edgesValid edges)).1 }) rfl (hs.clock.judged _)).of_control
    (raiseIf_control _ _ _)

theorem ControlOk.setClock (hs : ControlOk s) : ControlOk (setClock q tag pl s) := by
  unfold Machine.setClock
  split
  · next x =>
    split
    · have hexponent : 8 ≤ (clamp 8 12 x.toNat).1 ∧ (clamp 8 12 x.toNat).1 ≤ 12 := by unfold clamp; dsimp only; omega
      have hclock : ClockOk { s.clock with exponent := (clamp 8 12 x.toNat).1 } :=
        ⟨hexponent, hs.clock.settle, hs.clock.relock, hs.clock.owed, hs.clock.first⟩
      refine ControlOk.reply ?_
      exact hs.withClock rfl hclock
    · exact hs.reply
  · exact hs.reply

end Sys2Proof.Machine
end

section
/-! SUPPORT. The commands that store nothing among the keys, logic, lines, clock and slots: each leaves that part, so that the condition
on the state before is by definition the one on the state it replies over, and replies within 124 bytes (R183). -/

namespace Sys2Proof.Machine

variable {s : State} {q : PortIx} {tag : Byte} {pl : List Byte}

/-! ## Reads and the ports -/

theorem ControlOk.plainRead (hs : ControlOk s) {body : State → List Byte} (hb : (body s).length ≤ 124) :
    ControlOk (plainRead body q tag pl s) := by
  unfold Machine.plainRead
  split
  · exact hs.reply hb
  · exact hs.reply

theorem ControlOk.readEvents (hs : ControlOk s) : ControlOk (readEvents q tag pl s) := by
  unfold Machine.readEvents
  split
  · exact hs.answer (setPort_control q _ rfl)
  · exact hs.reply

theorem ControlOk.setEventMask (hs : ControlOk s) : ControlOk (setEventMask q tag pl s) := by
  unfold Machine.setEventMask
  split
  · exact hs.answer (setPort_control q _ rfl)
  · exact hs.reply

theorem ControlOk.resetRelease (hs : ControlOk s) {straps : Vector Straps 3} {t : State} (h : execResetRelease straps s = .next t) :
    ControlOk t := by
  cases h
  exact hs.of_control (ports_control (s := s) fun q => by rw [ofFn_get])

/-! ## The party table and the mix engine -/

theorem ControlOk.readParty (hs : ControlOk s) : ControlOk (readParty q tag pl s) := by
  unfold Machine.readParty
  split
  · split
    · exact hs.reply
    · exact hs.reply
  · exact hs.reply

theorem ControlOk.setParty (hs : ControlOk s) : ControlOk (setParty q tag pl s) := by
  unfold Machine.setParty
  split
  · split
    · exact hs.reply
    · split
      · exact hs.reply
      · dsimp only
        generalize setPartyAllowed _ _ _ = allowed
        cases allowed
        · exact hs.reply
        · exact hs.answer (raiseIf_control _ _ _)
  · exact hs.reply

theorem ControlOk.setSend (hs : ControlOk s) : ControlOk (setSend q tag pl s) := by
  unfold Machine.setSend
  repeat' split
  all_goals exact hs.reply

theorem ControlOk.setMonitor (hs : ControlOk s) : ControlOk (setMonitor q tag pl s) := by
  unfold Machine.setMonitor
  repeat' split
  all_goals exact hs.reply

theorem ControlOk.frame (hs : ControlOk s) (x : FrameIn) : ControlOk (frameComputation x s) := by
  refine hs.of_control ?_
  unfold frameComputation endFrame
  split <;> exact raiseIf_control _ _ _

/-! ## Tones (R138, R139) -/

theorem ControlOk.writeSteps (hs : ControlOk s) : ControlOk (writeSteps q tag pl s) := by
  unfold Machine.writeSteps
  repeat' split
  case isTrue.isTrue hlen _ => exact hs.reply (by rw [len_steps]; omega)
  case isTrue.isFalse.isTrue hlen _ _ => exact hs.reply (by rw [len_steps]; omega)
  case isTrue.isFalse.isFalse hlen _ _ => exact hs.reply (by rw [len_steps]; omega)
  all_goals exact hs.reply

theorem ControlOk.writePitches (hs : ControlOk s) : ControlOk (writePitches q tag pl s) := by
  unfold Machine.writePitches
  repeat' split
  case isTrue.isTrue hlen _ => exact hs.reply (by rw [len_pitches]; omega)
  case isTrue.isFalse.isTrue hlen _ _ => exact hs.reply (by rw [len_pitches]; omega)
  case isTrue.isFalse.isFalse hlen _ _ => exact hs.reply (by rw [len_pitches]; omega)
  all_goals exact hs.reply

theorem ControlOk.readToneMemory (hs : ControlOk s) : ControlOk (readToneMemory q tag pl s) := by
  unfold Machine.readToneMemory
  split
  · split
    · split
      · exact hs.reply (by rw [len_steps]; omega)
      · exact hs.reply
    · split
      · split
        · split
          · exact hs.reply (by rw [len_pitches]; omega)
          · exact hs.reply
        · exact hs.reply
      · exact hs.reply
  · exact hs.reply

theorem ControlOk.setPlayer (hs : ControlOk s) : ControlOk (setPlayer q tag pl s) := by
  unfold Machine.setPlayer
  repeat' split
  all_goals exact hs.reply

theorem ControlOk.playerCommand (hs : ControlOk s) (f : Player → Player × Result) : ControlOk (playerCommand f q tag pl s) := by
  unfold Machine.playerCommand
  repeat' split
  all_goals exact hs.reply

theorem ControlOk.setToneRoute (hs : ControlOk s) : ControlOk (setToneRoute q tag pl s) := by
  unfold Machine.setToneRoute
  repeat' split
  all_goals exact hs.reply

theorem ControlOk.playerTrigger (hs : ControlOk s) (j : PlayerIx) (c : CellIx) (out : Bool) : ControlOk (playerTrigger j c out s) := by
  unfold Machine.playerTrigger
  split <;> exact hs

theorem ControlOk.playerPeriod (hs : ControlOk s) (j : PlayerIx) : ControlOk (playerPeriod j s) :=
  hs.of_control (raiseIf_control _ _ _)

/-! ## Air delays -/

theorem ControlOk.setDelay (hs : ControlOk s) : ControlOk (setDelay q tag pl s) := by
  unfold Machine.setDelay
  split
  · split
    · exact hs.reply
    · split
      · split
        · exact hs.reply
        · exact hs.reply
      · exact hs.reply
  · exact hs.reply

theorem ControlOk.dump (hs : ControlOk s) : ControlOk (dump q tag pl s) := by
  unfold Machine.dump
  repeat' split
  all_goals exact hs.reply

theorem ControlOk.setMemorySize (hs : ControlOk s) : ControlOk (setMemorySize q tag pl s) := by
  unfold Machine.setMemorySize
  repeat' split
  all_goals exact hs.reply

theorem ControlOk.delayTrigger (hs : ControlOk s) (k : Programme) (c : CellIx) (out : Bool) : ControlOk (delayTrigger k c out s) := by
  unfold Machine.delayTrigger
  dsimp only
  split <;> exact hs

theorem ControlOk.delayPeriod (hs : ControlOk s) (k : Programme) : ControlOk (delayPeriod k s) := by
  refine hs.of_control ?_
  unfold Machine.delayPeriod testGuards
  rw [raiseIf_control]
  simp only [controlOf]

/-! ## Metering and line timing -/

theorem ControlOk.setMetering (hs : ControlOk s) : ControlOk (setMetering q tag pl s) := by
  unfold Machine.setMetering
  repeat' split
  all_goals exact hs.reply

theorem ControlOk.clearClips (hs : ControlOk s) : ControlOk (clearClips q tag pl s) := by
  unfold Machine.clearClips
  have hbody (t : State) : (clipBody t).length ≤ 124 := by rw [len_clip]; omega
  split
  · split
    · split
      · exact hs.answer (by simp only [controlOf]) (hbody _)
      · exact hs.reply (hbody s)
    · exact hs.reply
  · exact hs.reply

theorem ControlOk.setSupervisor (hs : ControlOk s) : ControlOk (setSupervisor q tag pl s) := by
  unfold Machine.setSupervisor
  split
  · split
    · exact hs.reply
    · split
      · exact hs.reply
      · split
        · exact hs.answer (raiseIf_control _ _ _)
        · exact hs.reply
  · exact hs.reply

theorem ControlOk.setLineTiming (hs : ControlOk s) : ControlOk (setLineTiming q tag pl s) := by
  unfold Machine.setLineTiming
  repeat' split
  all_goals exact hs.reply

theorem completeMeasurement_control (s : State) : controlOf (completeMeasurement s) = controlOf s := raiseIf_control _ _ _

theorem ControlOk.meterPeriod (hs : ControlOk s) : ControlOk (meterPeriod s) := by
  have hcompleted : ControlOk (completeMeasurement s) := hs.of_control (completeMeasurement_control s)
  unfold Machine.meterPeriod
  split
  · split <;> exact hs
  · split
    · unfold afterMeasurement; split <;> exact hcompleted
    · exact hs
  · split
    · exact hs
    · exact hs
    · split <;> exact hs

end Sys2Proof.Machine
end

section
/-! SUPPORT. The condition on keys, logic, lines, clock and slots at every command. -/

namespace Sys2Proof.Machine

variable {s t : State}

theorem reset_controlOk : ControlOk State.reset :=
  (controlOk_iff _).2 ⟨reset_keysOk, reset_logicOk, reset_linesOk, reset_clockOk, reset_slotsOk⟩

/-- RESET brings the condition about, and every other command keeps it. -/
theorem exec_keeps_control {c : Instr} (hs : ControlOk s) (h : exec c s = .next t) : ControlOk t := by
  cases c with
  | reset => cases h; exact reset_controlOk
  | resetRelease straps => exact hs.resetRelease h
  | frameAnswer q bytes => exact hs.of_live h hs.reply
  | unknownCommand q n tag pl => exact hs.of_live h hs.reply
  | nop q tag pl => exact hs.of_live h hs
  | readStatus q tag pl => exact hs.of_live h (hs.plainRead (by rw [len_status]; omega))
  | readEvents q tag pl => exact hs.of_live h hs.readEvents
  | setEventMask q tag pl => exact hs.of_live h hs.setEventMask
  | readParty q tag pl => exact hs.of_live h hs.readParty
  | readTable q tag pl => exact hs.of_live h (hs.plainRead (by rw [len_table]; omega))
  | setParty q tag pl => exact hs.of_live h hs.setParty
  | answer q tag pl => exact hs.of_live h (hs.stateCommand ..)
  | screen q tag pl => exact hs.of_live h (hs.stateCommand ..)
  | hold q tag pl => exact hs.of_live h (hs.stateCommand ..)
  | ready q tag pl => exact hs.of_live h (hs.stateCommand ..)
  | privateTalk q tag pl => exact hs.of_live h (hs.stateCommand ..)
  | take q tag pl => exact hs.of_live h (hs.stateCommand ..)
  | drop q tag pl => exact hs.of_live h (hs.stateCommand ..)
  | setSend q tag pl => exact hs.of_live h hs.setSend
  | setMonitor q tag pl => exact hs.of_live h hs.setMonitor
  | key q tag pl => exact hs.of_live h hs.key
  | setKey q tag pl => exact hs.of_live h hs.setKey
  | readKeys q tag pl => exact hs.of_live h (hs.plainRead (by rw [len_keys]; omega))
  | request k p => exact hs.of_live h hs
  | release k p => exact hs.of_live h hs
  | reconsideration k p => exact hs.of_live h hs
  | keyTrigger k c out => exact hs.of_live h ((hs.took _).keyTrigger k c out)
  | writeSteps q tag pl => exact hs.of_live h hs.writeSteps
  | writePitches q tag pl => exact hs.of_live h hs.writePitches
  | readToneMemory q tag pl => exact hs.of_live h hs.readToneMemory
  | setPlayer q tag pl => exact hs.of_live h hs.setPlayer
  | start q tag pl => exact hs.of_live h (hs.playerCommand _)
  | stop q tag pl => exact hs.of_live h (hs.playerCommand _)
  | abort q tag pl => exact hs.of_live h (hs.playerCommand _)
  | setToneRoute q tag pl => exact hs.of_live h hs.setToneRoute
  | readPlayers q tag pl => exact hs.of_live h (hs.plainRead (by rw [len_players]; omega))
  | playerTrigger j c out => exact hs.of_live h ((hs.took _).playerTrigger j c out)
  | setDelay q tag pl => exact hs.of_live h hs.setDelay
  | dump q tag pl => exact hs.of_live h hs.dump
  | readDelay q tag pl => exact hs.of_live h (hs.plainRead (by rw [len_delays]; omega))
  | setMemorySize q tag pl => exact hs.of_live h hs.setMemorySize
  | delayTrigger k c out => exact hs.of_live h ((hs.took _).delayTrigger k c out)
  | setMetering q tag pl => exact hs.of_live h hs.setMetering
  | readMeters q tag pl => exact hs.of_live h (hs.plainRead (by rw [len_meters]; omega))
  | setSupervisor q tag pl => exact hs.of_live h hs.setSupervisor
  | readSupervisors q tag pl => exact hs.of_live h (hs.plainRead (by rw [len_sups]; omega))
  | clearClips q tag pl => exact hs.of_live h hs.clearClips
  | setCell q tag pl => exact hs.of_live h hs.setCell
  | setGpo q tag pl => exact hs.of_live h hs.setGpo
  | readLogic q tag pl => exact hs.of_live h (hs.plainRead (by rw [len_logic]; omega))
  | setLineTiming q tag pl => exact hs.of_live h hs.setLineTiming
  | setClock q tag pl => exact hs.of_live h hs.setClock
  | supervisionSample aux => exact hs.of_live h (hs.sampled aux)
  | partyEvaluation p => exact hs.of_live h (hs.evaluated p)
  | ring p => exact hs.of_live h ((hs.took _).applyCause ..)
  | ringAbandon p => exact hs.of_live h ((hs.took _).applyCause ..)
  | answerFailure p => exact hs.of_live h ((hs.took _).applyCause ..)
  | loopDrop p => exact hs.of_live h ((hs.took _).applyCause ..)
  | clearingComplete p => exact hs.of_live h ((hs.took _).applyCause ..)
  | linkUp p => exact hs.of_live h ((hs.took _).applyCause ..)
  | linkDown p => exact hs.of_live h ((hs.took _).applyCause ..)
  | mePeriodStart => exact hs.of_live h hs
  | frameComputation x => exact hs.of_live h (hs.frame x)
  | delayWriteRead k => exact hs.of_live h hs
  | delayPeriodStart k => exact hs.of_live h (hs.delayPeriod k)
  | dumpJump k => exact hs.of_live h (hs.of_case _ (hs.delayPeriod k))
  | playerPeriodStart j => exact hs.of_live h (hs.playerPeriod j)
  | stepComplete j => exact hs.of_live h (hs.of_case _ (hs.playerPeriod j))
  | abortFadeEnd j => exact hs.of_live h (hs.of_case _ (hs.playerPeriod j))
  | meterPeriodStart => exact hs.of_live h hs.meterPeriod
  | measurementComplete => exact hs.of_live h (hs.of_case _ hs.meterPeriod)
  | waitingEnd => exact hs.of_live h (hs.of_case _ hs.meterPeriod)
  | lcPeriodEnd pins => exact hs.of_live h (hs.lcPeriod pins)
  | gpoDelivery g c out => exact hs.of_live h ((hs.took _).gpoDelivery g c out)
  | judgement edges => exact hs.of_live h (hs.judge edges)
  | realign edges => exact hs.of_live h (hs.of_case _ (hs.judge edges))

/-- Settles O57: a step that runs a command keeps the five conditions, which are one condition item by item. -/
theorem stepsKeepKeysLogicLinesAndClock : Obligations.StepsKeepKeysLogicLinesAndClock := by
  unfold Obligations.StepsKeepKeysLogicLinesAndClock
  intro s t hs h
  rw [← controlOk_iff] at hs ⊢
  rcases step_next h with rfl | ⟨c, rest, -, hc⟩
  · exact hs
  · have hrest : ControlOk { s with pending := rest } := hs
    exact exec_keeps_control hrest hc

end Sys2Proof.Machine
end

section
/-! SUPPORT. The Line Supervisor (chapter 2): the filter, the evaluation of a line by its state, and that of a codec. -/

namespace Sys2Proof.Machine

variable {s : State} {p : PartyIx}

/-- The filtered value of three samples is the one that two of them agree on (R36). -/
theorem filtered_three : ∀ a b c : Bool, filtered [a, b, c] = decide (2 ≤ [a, b, c].count true) := by decide

/-- The evaluation of a line in the period that runs. -/
def lineEvaluation (s : State) (p : PartyIx) (n : LineIx) : LineCtx × Bool × List Instr :=
  evaluateLine p s.parties[p].state (dropTime s.dropCode) s.lines[n]

/-- The evaluation of a line stores its context, raises FLASH and hands its cause, and does nothing else (R37). -/
theorem evaluateParty_line {n : LineIx} (h : p.val = n.val) :
    evaluateParty p s =
      hand (lineEvaluation s p n).2.2 (raiseIf (lineEvaluation s p n).2.1 .flash
        { s with lines := s.lines.set n (lineEvaluation s p n).1 }) := by
  obtain ⟨i, hi⟩ := p
  obtain rfl : i = n.val := h
  unfold evaluateParty
  exact dif_pos n.isLt

/-- A RINGING line counts the gap of its ring (R38). -/
theorem evaluateLine_ringing (c : LineCtx) (limit : Nat) :
    evaluateLine p .ringing limit c =
      if filtered c.ring then ({ c with ringCount := 0 }, false, [])
      else
        ({ c with ringCount := min ringLimit (c.ringCount + 1) }, false,
          if ringLimit ≤ c.ringCount + 1 then [.ringAbandon p] else []) := rfl

/-- A CLEARING line counts its guard (R42). -/
theorem evaluateLine_clearing (c : LineCtx) (limit : Nat) :
    evaluateLine p .clearing limit c =
      if filtered c.ring ∨ filtered c.loop then ({ c with clearingCount := 0 }, false, [])
      else
        ({ c with clearingCount := min clearingLimit (c.clearingCount + 1) }, false,
          if clearingLimit ≤ c.clearingCount + 1 then [.clearingComplete p] else []) := by
  simp [evaluateLine]

/-- A connected phone whose loop has been seen counts its drop and raises FLASH at a shorter absence (R40). -/
theorem evaluateLine_seen {st : PState} {c : LineCtx} (limit : Nat) (hst : st.phoneConnected = true) (hseen : c.loopSeen = true) :
    evaluateLine p st limit c =
      if filtered c.loop then ({ c with dropCount := 0 }, decide (0 < c.dropCount), [])
      else
        ({ c with dropCount := min dropMax (c.dropCount + 1) }, false,
          if limit ≤ c.dropCount + 1 then [.loopDrop p] else []) := by
  revert hst; cases st <;> simp [PState.phoneConnected, evaluateLine, hseen]

/-- A connected phone whose loop has not been seen counts its answer (R39). -/
theorem evaluateLine_unseen {st : PState} {c : LineCtx} (limit : Nat) (hst : st.phoneConnected = true) (hseen : c.loopSeen = false) :
    evaluateLine p st limit c =
      if filtered c.loop then ({ c with loopSeen := true, answerCount := 0 }, false, [])
      else
        ({ c with answerCount := min answerLimit (c.answerCount + 1) }, false,
          if answerLimit ≤ c.answerCount + 1 then [.answerFailure p] else []) := by
  revert hst; cases st <;> simp [PState.phoneConnected, evaluateLine, hseen]

/-- The evaluation of a codec hands its cause and does nothing else (R44). -/
theorem evaluateParty_link {n : LinkIx} (h : p.val = n.val + 16) :
    evaluateParty p s = hand (evaluateLink p s.parties[p].state s.links[n]) s := by
  obtain ⟨i, hi⟩ := p
  obtain rfl : i = n.val + 16 := h
  unfold evaluateParty
  rw [dif_neg (Nat.not_lt.2 (Nat.le_add_left 16 n.val))]
  rfl

/-! ## What an evaluation leaves of the part -/

variable {n : LineIx}

theorem evaluateParty_rest (h : p.val = n.val) :
    evaluateParty p s = { s with
      lines := (evaluateParty p s).lines, ports := (evaluateParty p s).ports, handed := (evaluateParty p s).handed } := by
  rw [evaluateParty_line h, raiseIf_changes]
  rfl

theorem evaluateParty_lines (h : p.val = n.val) : (evaluateParty p s).lines = s.lines.set n (lineEvaluation s p n).1 := by
  rw [evaluateParty_line h, hand_lines, raiseIf_lines]

/-- The context, the cause and the flag of an evaluation that gives them. -/
theorem evaluateParty_of {c : LineCtx} {flash : Bool} {causes : List Instr} (h : p.val = n.val)
    (he : lineEvaluation s p n = (c, flash, causes)) :
    (evaluateParty p s).lines[n] = c ∧ (evaluateParty p s).handed = s.handed ++ causes ∧
      Raised (flagIf flash .flash) s (evaluateParty p s) := by
  refine ⟨?_, ?_, raised_of_ports fun j => ?_⟩
  · rw [evaluateParty_lines h, set_get_self, he]
  · rw [evaluateParty_line h, he]
    simp only [hand, raiseIf_handed]
  · rw [evaluateParty_line h, hand_ports, raiseIf_ports, he]

end Sys2Proof.Machine
end

section
/-! OBLIGATIONS. Sampling, filtering and evaluation. -/

namespace Sys2Proof.Machine

/-- Settles O23: the sample item by item, and an evaluation by the state of its party. -/
theorem samplesAndEvaluationsRunTheCounts : Obligations.SamplesAndEvaluationsRunTheCounts := by
  unfold Obligations.SamplesAndEvaluationsRunTheCounts
  refine ⟨fun s aux hr => ⟨_, live_of_released _ hr, rfl, fun n => ofFn_get _ n, fun n => ?sample⟩, filtered_three,
    fun h => filtered_short, fun s p n hr hp => ?line, fun s p n hr hp => ?link⟩
  case sample =>
    have hlink : (sampleAll aux s).links[n] =
        { link := pushSample (auxA7 aux.cdc[n]) s.links[n].link, valid := pushSample (auxA6 aux.cdc[n]) s.links[n].valid } :=
      ofFn_get _ n
    rw [hlink]
    exact ⟨rfl, rfl⟩
  case link =>
    refine (live_of_released _ hr).trans (congrArg Host.Outcome.next ?_)
    rw [evaluateParty_link hp]
    cases s.parties[p].state <;> rfl
  case line =>
    refine ⟨_, live_of_released _ hr, evaluateParty_rest hp, evaluateParty_lines hp ▸ sameBut_set _ _ _, ?_⟩
    have hst : lineEvaluation s p n = evaluateLine p s.parties[p].state (dropTime s.dropCode) s.lines[n] := rfl
    have hdrop : dropTime s.dropCode = match s.dropCode with | 0 => 225 | 1 => 450 | 2 => 900 := rfl
    generalize s.parties[p].state = st at hst ⊢
    cases st
    case idle =>
      obtain ⟨hcontext, hhanded, hraised⟩ := evaluateParty_of hp hst
      exact ⟨hcontext, hraised, hhanded⟩
    case offline | standby =>
      obtain ⟨hcontext, hhanded, hraised⟩ := evaluateParty_of hp hst
      exact ⟨hcontext, hraised, hhanded.trans (List.append_nil _)⟩
    case ringing =>
      rw [evaluateLine_ringing] at hst
      split at hst
      · next hring =>
        obtain ⟨hcontext, hhanded, hraised⟩ := evaluateParty_of hp hst
        exact ⟨hraised, (if_pos hring).mpr ⟨hcontext, hhanded.trans (List.append_nil _)⟩⟩
      · next hring =>
        obtain ⟨hcontext, hhanded, hraised⟩ := evaluateParty_of hp hst
        exact ⟨hraised, (if_neg hring).mpr ⟨hcontext, hhanded⟩⟩
    case clearing =>
      rw [evaluateLine_clearing] at hst
      split at hst
      · next hpresent =>
        obtain ⟨hcontext, hhanded, hraised⟩ := evaluateParty_of hp hst
        exact ⟨hraised, (if_pos hpresent).mpr ⟨hcontext, hhanded.trans (List.append_nil _)⟩⟩
      · next habsent =>
        obtain ⟨hcontext, hhanded, hraised⟩ := evaluateParty_of hp hst
        exact ⟨hraised, (if_neg habsent).mpr ⟨hcontext, hhanded⟩⟩
    case screen | hold | ready | priv | air =>
      cases hseen : s.lines[n].loopSeen with
      | false =>
        rw [evaluateLine_unseen _ rfl hseen] at hst
        refine (if_pos rfl).mpr ?_
        split at hst
        · next hloop =>
          obtain ⟨hcontext, hhanded, hraised⟩ := evaluateParty_of hp hst
          exact ⟨hraised, (if_pos hloop).mpr ⟨hcontext, hhanded.trans (List.append_nil _)⟩⟩
        · next hloop =>
          obtain ⟨hcontext, hhanded, hraised⟩ := evaluateParty_of hp hst
          exact ⟨hraised, (if_neg hloop).mpr ⟨hcontext, hhanded⟩⟩
      | true =>
        rw [evaluateLine_seen _ rfl hseen, hdrop] at hst
        refine (if_neg nofun).mpr ?_
        split at hst
        · next hloop =>
          obtain ⟨hcontext, hhanded, hraised⟩ := evaluateParty_of hp hst
          exact (if_pos hloop).mpr ⟨hcontext, hhanded.trans (List.append_nil _), hraised⟩
        · next hloop =>
          obtain ⟨hcontext, hhanded, hraised⟩ := evaluateParty_of hp hst
          exact (if_neg hloop).mpr ⟨hcontext, hraised, hhanded⟩

end Sys2Proof.Machine
end

section
/-! OBLIGATIONS. The state after RESET in the blocks other than PT. -/

namespace Sys2Proof.Machine

/-- Every item of a vector of equal items. -/
theorem replicate_get {α : Type} {n : Nat} (x : α) (i : Fin n) : (Vector.replicate n x)[i] = x := by simp

/-- Settles O4: each record by its definition after RESET. -/
theorem resetSetsTheOtherBlocks : Obligations.ResetSetsTheOtherBlocks := by
  unfold Obligations.ResetSetsTheOtherBlocks
  intro s
  refine ⟨_, rfl, rfl, rfl, fun n => replicate_get _ n, fun n => replicate_get _ n, rfl, fun n b => ?sends, rfl, rfl, rfl, rfl, rfl,
    fun p => ⟨replicate_get _ p, replicate_get _ p⟩, ?formed, fun k => ofFn_get _ k, rfl, rfl, rfl, rfl, rfl, fun d => ?delays,
    fun a => replicate_get _ a, fun i => replicate_get _ i, fun j => replicate_get _ j, fun r => replicate_get _ r, rfl,
    fun n => replicate_get _ n, fun n => replicate_get _ n, fun n => ⟨replicate_get _ n, replicate_get _ n⟩,
    fun c => replicate_get _ c, rfl, fun n => ⟨replicate_get _ n, replicate_get _ n⟩, fun n => replicate_get _ n,
    fun _ _ _ => rfl, fun b => ?idle, fun q => ?ports⟩
  case sends =>
    have hsend : State.reset.mix.sends[n] = Vector.replicate 5 { gain := 255, excluded := false } := replicate_get _ n
    have hcoef : State.reset.mix.sendCoef[n] = Vector.replicate 5 { old := 0, new := 0 } := replicate_get _ n
    dsimp only
    exact ⟨by rw [hsend]; exact replicate_get _ b, by rw [hcoef]; exact replicate_get _ b⟩
  case formed =>
    intro f hf
    simp only [List.mem_cons, List.not_mem_nil, or_false] at hf
    rcases hf with rfl | rfl <;> rfl
  case delays =>
    have hdelay := reset_delay d
    dsimp only
    rw [hdelay]
    exact ⟨rfl, rfl⟩
  case idle => cases b <;> rfl
  case ports =>
    have hport : State.reset.ports[q] = Port.atReset := replicate_get _ q
    unfold attn
    dsimp only
    rw [hport]
    exact ⟨rfl, rfl, rfl, rfl⟩

end Sys2Proof.Machine
end

section
/-! SUPPORT. The output slots of a frame (R46, R71, R72, R192, R195): the audio and the auxiliary bits of a slot, the dip, and the lines of
an audio port. -/

namespace Sys2Proof.Machine

variable {s : State}

/-! ## The dip and the audio bits of a slot -/

/-- A sample under the coefficient of the dip (R195). -/
def dipped (s : State) (v : Sample) : Int := rnd (v.toInt * dipCoef s.clock s.mix.frame)

/-- Outside a dip a sample stands (R195). -/
theorem dipped_outside (v : Sample) (h : dipCoef s.clock s.mix.frame = 16384) : dipped s v = v.toInt := by
  unfold dipped; rw [h]; exact rnd_mul _

/-- Silence stands in every dip. -/
theorem dipped_silence : dipped s 0 = 0 := by simp [dipped, rnd]

/-- The audio bits of a slot are the dipped sample (R192, R195). -/
theorem slotOf_audio (v : Sample) (aux : Byte) : ((slotOf s v aux).extractLsb' 8 24).toInt = dipped s v := by
  unfold slotOf
  rw [slot_audio]
  have hdip := dip_range s.clock s.mix.frame
  have hv := sample_range v
  obtain ⟨hlow, hhigh⟩ := frame16 v.toInt s.mix.frame _ hdip.1 hdip.2 hv.1 hv.2
  exact toSample_toInt hlow hhigh

/-! ## The auxiliary bits of a slot -/

/-- An auxiliary bit of a slot. -/
theorem slotOf_aux (v : Sample) (aux : Byte) {i : Nat} (h : i < 8) : (slotOf s v aux).getLsbD i = aux.getLsbD i := slot_low _ _ i h

/-- Auxiliary bits of a slot taken from A0 on. -/
theorem slotOf_extract (v : Sample) (aux : Byte) {n : Nat} (h : n ≤ 8) : (slotOf s v aux).extractLsb' 0 n = aux.extractLsb' 0 n := by
  apply BitVec.eq_of_getLsbD_eq
  intro i hi
  rw [BitVec.getLsbD_extractLsb', BitVec.getLsbD_extractLsb', Nat.zero_add, slotOf_aux v aux (by omega)]

/-- SEIZE stands at A7, ONAIR at A6, and the other bits are 0 (R46, R192). -/
theorem auxOut_bits (p : PartyIx) :
    (auxOut s p).getLsbD 7 = seize s p ∧ (auxOut s p).getLsbD 6 = onair s p ∧ (auxOut s p).extractLsb' 0 6 = 0 := by
  unfold auxOut
  cases seize s p <;> cases onair s p <;> decide

theorem seize_line (n : LineIx) : seize s ⟨n.val, by omega⟩ = s.parties[n.val].state.phoneConnected := by simp [seize]

theorem seize_link (n : LinkIx) : seize s ⟨n.val + 16, by omega⟩ = false := by simp [seize]

theorem onair_eq (p : PartyIx) : onair s p = decide (s.parties[p].state = .air) := by
  unfold onair; cases s.parties[p].state <;> rfl

/-! ## The slots of a frame -/

theorem sentAfter_tel (n : LineIx) :
    (sentAfter s).tel[n] = slotOf s (s.formedBefore.returns[n.val]'(by omega)) (auxOut s ⟨n.val, by omega⟩) := ofFn_get _ n

theorem sentAfter_cdc (n : LinkIx) :
    (sentAfter s).cdc[n] = slotOf s (s.formedBefore.returns[n.val + 16]'(by omega)) (auxOut s ⟨n.val + 16, by omega⟩) := ofFn_get _ n

theorem sentAfter_stu (n : StudioIx) : (sentAfter s).stu[n] = slotOf s (studioSlot s.formedBefore n) 0 := ofFn_get _ n

/-! ## The lines of an audio port (R192) -/

theorem slot_tel (x : Sent) (n : StudioIx) : x.slot? .tel n.val = some x.tel[n] := Vector.getElem?_eq_getElem n.isLt

theorem slot_cdc (x : Sent) (n : LinkIx) : x.slot? .cdc n.val = some x.cdc[n] := Vector.getElem?_eq_getElem n.isLt

theorem slot_stu (x : Sent) (n : StudioIx) : x.slot? .stu n.val = some x.stu[n] := Vector.getElem?_eq_getElem n.isLt

/-- The lines in bit b of slot n, of the m that a port carries. -/
theorem audioLines_slot {port : AudioPort} {m : Nat} [NeZero m] {n : Fin m} {x : TdmSlot} (hr : s.inReset = false)
    (hx : s.sent.slot? port n.val = some x) (b : Fin 32) (risen : Bool) :
    audioLines s port (32 * n.val + b.val) risen =
      { fsync := decide (n = 0 ∧ b = 0), bclk := risen, dout := x.getLsbD (31 - b.val) } := by
  have hdiv : (32 * n.val + b.val) / 32 = n.val := by omega
  have hmod : (32 * n.val + b.val) % 32 = b.val := by omega
  have hfirst : (32 * n.val + b.val == 0) = decide (n = 0 ∧ b = 0) := by
    rw [Bool.eq_iff_iff, beq_iff_eq, decide_eq_true_iff, Fin.ext_iff, Fin.ext_iff, Fin.val_zero, Fin.val_zero]
    omega
  unfold audioLines
  rw [hr, hdiv, hmod, hx, hfirst]
  rfl

end Sys2Proof.Machine
end

section
/-! OBLIGATIONS. The output slots of a frame. -/

namespace Sys2Proof.Machine

/-- Settles O33: a slot by its audio and auxiliary bits, a line level by the slot of its bit period. -/
theorem outputSlotsCarryTheFrameBeforeLast : Obligations.OutputSlotsCarryTheFrameBeforeLast := by
  unfold Obligations.OutputSlotsCarryTheFrameBeforeLast
  intro s x hr
  refine ⟨_, live_of_released _ hr, fc_before x s, ?_⟩
  intro c _
  have hc : c = dipCoef s.clock s.mix.frame := rfl
  have hreset : (frameComputation x s).inReset = false := by rw [frameComputation_inReset, hr]
  rw [fc_sent]
  refine ⟨fun n => ?tel, fun n => ?cdc, fun n => ?stu, fun h v => dipped_outside v (hc ▸ h), fun n b risen => ⟨?telLines, ?stuLines⟩,
    fun n b risen => ?cdcLines⟩
  case tel =>
    obtain ⟨hseize, honair, hlow⟩ := auxOut_bits (s := s) ⟨n.val, by omega⟩
    rw [sentAfter_tel, slotOf_aux _ _ (by omega), slotOf_aux _ _ (by omega), slotOf_extract _ _ (by omega), hseize, honair, seize_line,
      onair_eq]
    exact ⟨slotOf_audio _ _, rfl, rfl, hlow⟩
  case cdc =>
    obtain ⟨hseize, honair, hlow⟩ := auxOut_bits (s := s) ⟨n.val + 16, by omega⟩
    rw [sentAfter_cdc, slotOf_aux _ _ (by omega), slotOf_aux _ _ (by omega), slotOf_extract _ _ (by omega), hseize, honair, seize_link,
      onair_eq]
    exact ⟨slotOf_audio _ _, rfl, rfl, hlow⟩
  case stu =>
    rw [sentAfter_stu, slotOf_extract _ _ (by omega), slotOf_audio]
    refine ⟨by decide, ?_⟩
    match n with
    | 0 | 1 | 2 | 3 | 4 | 5 | 6 | 7 => rfl
    | ⟨n + 8, _⟩ => exact dipped_silence
  case telLines => exact audioLines_slot hreset (by rw [fc_sent, slot_tel]) b risen
  case stuLines => exact audioLines_slot hreset (by rw [fc_sent, slot_stu]) b risen
  case cdcLines => exact audioLines_slot hreset (by rw [fc_sent, slot_cdc]) b risen

end Sys2Proof.Machine
end

section
/-! SUPPORT. What ME takes at a period start (R56 to R60, R68, R75, R77, R81, R82, R90): the contribution, the feed, the gate, the tones
and the coefficients of a party, by its state. -/

namespace Sys2Proof.Machine

variable {s : State} {p : PartyIx}

/-! ## Gain codes (R51) -/

/-- The coefficient of a code up to 192 is its formula with a half rounded up, both bounds raised to the power 40 (R51). -/
theorem coef_rounds (v : Byte) (h : v.toNat ≤ 192) :
    (2 * coef v - 1) ^ 40 * 10 ^ v.toNat ≤ 32768 ^ 40 * 10 ^ 12 ∧
      32768 ^ 40 * 10 ^ 12 < (2 * coef v + 1) ^ 40 * 10 ^ v.toNat :=
  gainTable_rounds ⟨v.toNat, by omega⟩

/-- Gain code 12 is unity (R51). -/
theorem coef_unity : coef 12 = 16384 := rfl

/-! ## Sources and tones (R56, R57, R68, R81, R90) -/

/-- The bus a party contributes to, by its number (R56). -/
theorem contribution_iff (st : PState) (k : Programme) (b : BusIx) :
    contribution st k = some b ↔
      (match st with
        | .screen => decide (b.val = 2)
        | .priv => decide (b.val = 3 + k.val)
        | .air => decide (b.val = k.val)
        | .hold | .ready | .standby | .idle | .ringing | .clearing | .offline => false) = true := by
  revert k b; cases st <;> decide

/-- The source term a party takes for a bus, by its state and programme (R56, R81). -/
theorem sourceTaken_eq (r : PartyRec) (b : BusIx) :
    sourceTaken r b =
      if (match r.state with
        | .screen => decide (b.val = 2)
        | .priv => decide (b.val = 3 + r.programme.val)
        | .air => decide (b.val = r.programme.val)
        | .hold | .ready | .standby | .idle | .ringing | .clearing | .offline => false)
      then coef r.sourceGain else 0 := by
  unfold sourceTaken
  exact if_congr (contribution_iff ..) rfl rfl

/-- The tone gain of the route of a party's state (R90). -/
theorem toneTaken_eq :
    toneTaken s p =
      match s.parties[p].state with
      | .screen => coef s.routes[0].gain
      | .hold => coef s.routes[1].gain
      | .ready => coef s.routes[2].gain
      | .standby => coef s.routes[3].gain
      | .priv => coef s.routes[4].gain
      | .air => coef s.routes[5].gain
      | .idle | .ringing | .clearing | .offline => 0 := by
  unfold toneTaken
  cases s.parties[p].state <;> rfl

/-- The players of the route of a party's state, none with the tone mute on (R68). -/
theorem toneSet_get (j : PlayerIx) :
    (toneSet s p)[j] = (!s.parties[p].toneMute &&
      match s.parties[p].state with
      | .screen => s.routes[0].players[j]
      | .hold => s.routes[1].players[j]
      | .ready => s.routes[2].players[j]
      | .standby => s.routes[3].players[j]
      | .priv => s.routes[4].players[j]
      | .air => s.routes[5].players[j]
      | .idle | .ringing | .clearing | .offline => false) := by
  have hnone : (Vector.replicate 4 false : Mask 4)[j] = false := by simp
  unfold toneSet
  cases hmute : s.parties[p].toneMute
  · cases s.parties[p].state <;> first | rfl | exact hnone
  · cases s.parties[p].state <;> exact hnone

/-- A connected state is none of the four others (R5). -/
theorem connected_iff (st : PState) : st.connected = true ↔ st ∉ [PState.idle, .ringing, .clearing, .offline] := by
  cases st <;> simp [PState.connected]

/-- The gate of a line is open, that of a codec while its filtered VALID is present (R45, R57). -/
theorem validGate_iff : validGate s p = true ↔ ∀ n : LinkIx, p.val = n.val + 16 → filtered s.links[n].valid = true := by
  unfold validGate filteredSecond
  by_cases hp : p.val < 16
  · simp only [hp, decide_true, Bool.true_or, true_iff]
    intro n hn
    omega
  · rw [dif_neg hp, decide_eq_false hp, Bool.false_or]
    constructor
    · intro h n hn
      have hindex : p.val - 16 = n.val := by omega
      simp only [hindex] at h
      exact h
    · intro h
      exact h ⟨p.val - 16, by omega⟩ (by simp only; omega)

/-- A source is heard with its gate open while the party is connected or still has a coefficient held (R57; log 22). -/
theorem heardIn_iff :
    heardIn s p = true ↔ (∀ n : LinkIx, p.val = n.val + 16 → filtered s.links[n].valid = true) ∧
      (s.parties[p].state ∉ [PState.idle, .ringing, .clearing, .offline] ∨ ∃ b : BusIx, s.partyMix[p].source[b].new ≠ 0) := by
  unfold heardIn
  rw [Bool.and_eq_true, Bool.or_eq_true, validGate_iff, connected_iff]
  simp

/-! ## Feeds (R58 to R60, R82) -/

/-- The new feed of a party, by its state, programme and mark (R58, R59). -/
theorem feedOf_cases :
    match s.parties[p].state with
    | .idle | .ringing | .clearing | .offline => feedOf s p = .silence
    | .screen => ∃ m e, feedOf s p = .bus 2 m e
    | .priv => ∃ b m e, feedOf s p = .bus b m e ∧ b.val = 3 + s.parties[p].programme.val
    | .air | .standby => ∃ b m e, feedOf s p = .bus b m e ∧ b.val = s.parties[p].programme.val
    | .hold | .ready =>
      if s.parties[p].echoMark = none ∧ s.delays[s.parties[p].programme].holdFeed = .air then
        feedOf s p = .air s.parties[p].programme
      else ∃ b m e, feedOf s p = .bus b m e ∧ b.val = s.parties[p].programme.val := by
  have hprogramme : ∃ b m e, busFeed s p (programmeBus s.parties[p].programme) = .bus b m e ∧ b.val = s.parties[p].programme.val :=
    ⟨_, _, _, rfl, rfl⟩
  have hhold : if s.parties[p].echoMark = none ∧ s.delays[s.parties[p].programme].holdFeed = .air then
      holdFeedFor s p = .air s.parties[p].programme
      else ∃ b m e, holdFeedFor s p = .bus b m e ∧ b.val = s.parties[p].programme.val := by
    unfold holdFeedFor
    cases s.parties[p].echoMark with
    | some mark => simpa using hprogramme
    | none =>
      cases s.delays[s.parties[p].programme].holdFeed with
      | pre => simpa using hprogramme
      | air => rfl
  unfold feedOf
  cases s.parties[p].state
  case idle | ringing | clearing | offline => rfl
  case screen => exact ⟨_, _, rfl⟩
  case priv => exact ⟨_, _, _, rfl, Nat.add_comm _ _⟩
  case air | standby => exact hprogramme
  case hold | ready => exact hhold

/-- A bus-derived feed of a party leaves out the party with its group, and the excluded sends of its bus (R54, R60, R82). -/
theorem feedOf_bus {b : BusIx} {m : Mask 24} {e : Mask 16} (h : feedOf s p = .bus b m e) :
    m = subtractionSet s p ∧ e = exclusionSet s b := by
  have hbus {b' : BusIx} (h' : busFeed s p b' = .bus b m e) : m = subtractionSet s p ∧ e = exclusionSet s b := by
    cases h'; exact ⟨rfl, rfl⟩
  unfold feedOf holdFeedFor at h
  repeat' split at h
  all_goals first
    | exact hbus h
    | cases h

theorem subtractionSet_iff (j : PartyIx) :
    (subtractionSet s p)[j] = true ↔ j = p ∨ (s.parties[p].group ≠ 0 ∧ s.parties[j].group = s.parties[p].group) := by
  unfold subtractionSet; rw [ofFn_get]; simp

theorem exclusionSet_get (b : BusIx) (n : StudioIx) : (exclusionSet s b)[n] = s.mix.sends[n][b].excluded := ofFn_get _ n

/-! ## The coefficients (R78, R81) -/

/-- The period begins at frame 0 with the stored selection of MONITOR as the new one (R75; log 16). -/
theorem mixAfter_rest :
    (mixAfter s).sends = s.mix.sends ∧ (mixAfter s).monitor = s.mix.monitor ∧ (mixAfter s).frame = 0 ∧
      (mixAfter s).period = s.mix.period ∧ (mixAfter s).monitorOld = s.mix.monitorNew ∧ (mixAfter s).monitorNew = s.mix.monitor := by
  simp only [mixAfter, and_self]

theorem mixAfter_send (n : StudioIx) (b : BusIx) :
    (mixAfter s).sendCoef[n][b] = { old := s.mix.sendCoef[n][b].new, new := coef s.mix.sends[n][b].gain } := by
  have hsource : (mixAfter s).sendCoef[n] = Vector.ofFn fun b : BusIx => s.mix.sendCoef[n][b].toward (coef s.mix.sends[n][b].gain) :=
    ofFn_get _ n
  rw [hsource]
  exact ofFn_get _ b

theorem partyMixAfter_source (b : BusIx) :
    (partyMixAfter s p).source[b] = { old := s.partyMix[p].source[b].new, new := sourceTaken s.parties[p] b } := ofFn_get _ b

end Sys2Proof.Machine
end

section
/-! OBLIGATIONS. The period start of ME. -/

namespace Sys2Proof.Machine

/-- Settles O25: the codes by the table of R51, and what ME holds for a party item by item. -/
theorem periodStartTakesTheControlState : Obligations.PeriodStartTakesTheControlState := by
  unfold Obligations.PeriodStartTakesTheControlState
  refine ⟨fun v => ⟨fun h => coef_off v h, fun h => h ▸ coef_unity, coef_rounds v⟩, fun s hr => ?_⟩
  obtain ⟨hsends, hmonitor, hframe, hperiod, hold, hnew⟩ := mixAfter_rest (s := s)
  refine ⟨mePeriod s, live_of_released _ hr, rfl, hsends, hmonitor, hframe, hperiod, hold, hnew, mixAfter_send, fun p => ?_⟩
  rw [pm_get]
  refine ⟨fun b => ?source, rfl, ?tone, heardIn_iff, toneSet_get, rfl, feedOf_cases, fun b m e hbus => ?_⟩
  case source => exact (partyMixAfter_source b).trans (congrArg (Ramp.mk _) (sourceTaken_eq _ b))
  case tone => exact congrArg (Ramp.mk _) toneTaken_eq
  obtain ⟨rfl, rfl⟩ := feedOf_bus hbus
  exact ⟨subtractionSet_iff, exclusionSet_get b⟩

end Sys2Proof.Machine
end

section
/-! SUPPORT. What the Mix Engine holds (R51, R54, R60, R78, R81): the condition on it beside the parties and at one party, and what the
period start, a frame and each command owe to it. -/

namespace Sys2Proof.Machine

/-! ## The condition item by item -/

/-- The condition of MixOk on what ME holds beside the parties. -/
structure SendsOk (m : Mix) : Prop where
  gains : ∀ (n : StudioIx) (b : BusIx), gainOk m.sends[n][b].gain
  coefs : ∀ (n : StudioIx) (b : BusIx), m.sendCoef[n][b].ok

/-- The coefficients of the fold-back stage of a party. -/
structure StageOk (h : PartyMix) : Prop where
  duck : h.duck.ok
  keyUse : ∀ u, h.keyUse = some u → u.talk.ok
  leaving : ∀ u, h.leaving = some u → u.talk.ok

/-- The condition of MixOk on what ME holds for one party. -/
structure PartyMixOk (p : PartyIx) (h : PartyMix) : Prop where
  sources : ∀ b : BusIx, h.source[b].ok
  ret : h.ret.ok
  tone : h.tone.ok
  stage : StageOk h
  feedOld : h.feedOld.without p
  feedNew : h.feedNew.without p
  oneBus : ∀ a b : BusIx, h.source[a].new ≠ 0 → h.source[b].new ≠ 0 → a = b

/-- MixOk is the condition beside the parties and at every party. -/
theorem mixOk_iff (s : State) : MixOk s ↔ SendsOk s.mix ∧ ∀ p : PartyIx, PartyMixOk p s.partyMix[p] := by
  constructor
  · intro h
    refine ⟨⟨h.gains, h.sends⟩, fun p => ?_⟩
    obtain ⟨hret, htone, hduck⟩ := h.returns p
    obtain ⟨huse, hleaving⟩ := h.talks p
    obtain ⟨hold, hnew⟩ := h.feeds p
    exact ⟨h.sources p, hret, htone, ⟨hduck, huse, hleaving⟩, hold, hnew, h.oneBus p⟩
  · rintro ⟨hsends, hp⟩
    exact ⟨hsends.gains, hsends.coefs, fun p => (hp p).sources, fun p => ⟨(hp p).ret, (hp p).tone, (hp p).stage.duck⟩,
      fun p => ⟨(hp p).stage.keyUse, (hp p).stage.leaving⟩, fun p => ⟨(hp p).feedOld, (hp p).feedNew⟩, fun p => (hp p).oneBus⟩

/-! ## Ramps (R78, R79) -/

theorem Ramp.ok.toward {r : Ramp} (h : r.ok) {taken : Nat} (ht : taken ≤ 32690) : (r.toward taken).ok := ⟨h.2, ht⟩

theorem Ramp.ok.settle {r : Ramp} (h : r.ok) : r.settle.ok := ⟨h.2, h.2⟩

/-! ## The period start (R78, R81, R82, R86, R88) -/

variable {s t : State} {p : PartyIx}

theorem sourceTaken_le (r : PartyRec) (b : BusIx) : sourceTaken r b ≤ 32690 := by
  unfold sourceTaken
  split
  · exact coef_le _
  · omega

theorem toneTaken_le : toneTaken s p ≤ 32690 := by
  unfold toneTaken
  split
  · exact coef_le _
  · omega

/-- A party takes a source term on the one bus it contributes to (R56, R81). -/
theorem sourceTaken_oneBus {r : PartyRec} {a b : BusIx} (ha : sourceTaken r a ≠ 0) (hb : sourceTaken r b ≠ 0) : a = b := by
  unfold sourceTaken at ha hb
  have hca : contribution r.state r.programme = some a := by_contra fun h => ha (if_neg h)
  have hcb : contribution r.state r.programme = some b := by_contra fun h => hb (if_neg h)
  exact Option.some.inj (hca.symm.trans hcb)

/-- A party's own feed leaves the party out (R60, R82). -/
theorem feedOf_without : (feedOf s p).without p := by
  cases h : feedOf s p with
  | silence => trivial
  | air k => trivial
  | bus b m e =>
    obtain ⟨rfl, -⟩ := feedOf_bus h
    exact (subtractionSet_iff p).2 (.inl rfl)

theorem StageOk.held {h : PartyMix} (hh : StageOk h) : StageOk (foldBackHeld h) where
  duck := hh.duck.settle
  keyUse u hu := by
    obtain ⟨v, hv, rfl⟩ := Option.map_eq_some_iff.1 hu
    exact (hh.keyUse v hv).settle
  leaving := nofun

/-- A key entering use ramps from 0 to the coefficient of its talkback code (R86). -/
theorem keyEntering_ok (k : KeyIx) : (keyEntering s k).talk.ok := ⟨Nat.zero_le _, coef_le _⟩

/-- A key leaving use ramps to 0 (R86). -/
theorem keyLeaving_ok {u : KeyUse} (h : u.talk.ok) : (keyLeaving u).talk.ok := h.toward (Nat.zero_le _)

theorem StageOk.taken {h : PartyMix} (hh : StageOk h) : StageOk (foldBackTaken s p h) := by
  have hduck {c : Nat} (hc : c ≤ 32690) : (h.duck.toward c).ok := hh.duck.toward hc
  unfold foldBackTaken
  split
  · exact ⟨hduck (by omega), nofun, nofun⟩
  · next k _ _ => exact ⟨hduck (coef_le _), by rintro _ ⟨⟩; exact keyEntering_ok k, nofun⟩
  · next u hu _ => exact ⟨hduck (by omega), nofun, by rintro _ ⟨⟩; exact keyLeaving_ok (hh.keyUse u hu)⟩
  · next u k hu _ =>
    have hu := hh.keyUse u hu
    split
    · exact ⟨hduck (coef_le _), by rintro _ ⟨⟩; exact hu.toward (coef_le _), nofun⟩
    · exact ⟨hduck (coef_le _), by rintro _ ⟨⟩; exact keyEntering_ok k, by rintro _ ⟨⟩; exact keyLeaving_ok hu⟩

theorem StageOk.stage (h : StageOk s.partyMix[p]) : StageOk (foldBackStage s p) := by
  unfold foldBackStage
  split
  · exact h.held
  · exact h.taken

theorem PartyMixOk.periodStart (h : PartyMixOk p s.partyMix[p]) : PartyMixOk p (partyMixAfter s p) where
  sources b := by rw [partyMixAfter_source]; exact (h.sources b).toward (sourceTaken_le _ _)
  ret := h.ret.toward (coef_le _)
  tone := h.tone.toward toneTaken_le
  stage := ⟨h.stage.stage.duck, h.stage.stage.keyUse, h.stage.stage.leaving⟩
  feedOld := h.feedNew
  feedNew := feedOf_without
  oneBus a b := by rw [partyMixAfter_source, partyMixAfter_source]; exact sourceTaken_oneBus

theorem SendsOk.periodStart (h : SendsOk s.mix) : SendsOk (mixAfter s) where
  gains := h.gains
  coefs n b := by rw [mixAfter_send]; exact (h.coefs n b).toward (coef_le _)

theorem MixOk.periodStart (hs : MixOk s) : MixOk (mePeriod s) := by
  rw [mixOk_iff] at hs ⊢
  exact ⟨hs.1.periodStart, fun p => by rw [pm_get]; exact (hs.2 p).periodStart⟩

/-! ## The end of a period (R78, R79, R83) -/

theorem settle_source (h : PartyMix) (b : BusIx) : h.settle.source[b] = h.source[b].settle := ofFn_get _ b

theorem settle_send (m : Mix) (n : StudioIx) (b : BusIx) : m.settle.sendCoef[n][b] = m.sendCoef[n][b].settle := by
  have hsource : m.settle.sendCoef[n] = Vector.ofFn fun b : BusIx => m.sendCoef[n][b].settle := ofFn_get _ n
  rw [hsource]
  exact ofFn_get _ b

theorem PartyMixOk.settle {h : PartyMix} (hh : PartyMixOk p h) : PartyMixOk p h.settle where
  sources b := by rw [settle_source]; exact (hh.sources b).settle
  ret := hh.ret.settle
  tone := hh.tone.settle
  stage := ⟨hh.stage.held.duck, hh.stage.held.keyUse, nofun⟩
  feedOld := hh.feedNew
  feedNew := hh.feedNew
  oneBus a b := by rw [settle_source, settle_source]; exact hh.oneBus a b

theorem SendsOk.settle {m : Mix} (h : SendsOk m) : SendsOk m.settle where
  gains := h.gains
  coefs n b := by rw [settle_send]; exact (h.coefs n b).settle

/-- Frame 31 ends the period (R77; log 16). -/
theorem fc_last (x : FrameIn) (h : s.mix.frame = 31) :
    (frameComputation x s).mix = s.mix.settle ∧
      (frameComputation x s).partyMix = Vector.ofFn fun p : PartyIx => s.partyMix[p].settle := by
  unfold frameComputation endFrame
  rw [raiseIf_mix, if_pos h]
  exact ⟨rfl, by rw [raiseIf_partyMix]⟩

/-- Any other frame moves the frame count alone (R77). -/
theorem fc_running (x : FrameIn) (h : s.mix.frame ≠ 31) :
    (frameComputation x s).mix = { s.mix with frame := s.mix.frame + 1 } ∧ (frameComputation x s).partyMix = s.partyMix := by
  unfold frameComputation endFrame
  rw [raiseIf_mix, if_neg h]
  exact ⟨rfl, by rw [raiseIf_partyMix]⟩

theorem MixOk.frame (hs : MixOk s) (x : FrameIn) : MixOk (frameComputation x s) := by
  rw [mixOk_iff] at hs ⊢
  obtain ⟨hsends, hparties⟩ := hs
  by_cases h : s.mix.frame = 31
  · obtain ⟨hm, hp⟩ := fc_last x h
    rw [hm, hp]
    exact ⟨hsends.settle, fun p => by rw [ofFn_get]; exact (hparties p).settle⟩
  · obtain ⟨hm, hp⟩ := fc_running x h
    rw [hm, hp]
    exact ⟨⟨hsends.gains, hsends.coefs⟩, hparties⟩

/-! ## SET SEND and SET MONITOR (R51, R55, R74) -/

/-- A send after one was replaced. -/
theorem putSend_send (n m : StudioIx) (b a : BusIx) (x : Send) :
    (putSend n b x s).mix.sends[m][a] = if m = n ∧ a = b then x else s.mix.sends[m][a] := set_get_two _ n m b a x

theorem SendsOk.putSend (h : SendsOk s.mix) (n : StudioIx) (b : BusIx) {x : Send} (hx : gainOk x.gain) :
    SendsOk (putSend n b x s).mix where
  gains m a := by
    rw [putSend_send]
    split
    · exact hx
    · exact h.gains m a
  coefs := h.coefs

theorem MixOk.setSend (hs : MixOk s) (q : PortIx) (tag : Byte) (pl : List Byte) : MixOk (setSend q tag pl s) := by
  rw [mixOk_iff] at hs ⊢
  obtain ⟨hsends, hparties⟩ := hs
  unfold Machine.setSend
  split
  · split
    · next n b _ _ =>
      split
      · exact ⟨hsends.putSend n b (store_gainOk _ _ _ (hsends.gains n b)), hparties⟩
      · exact ⟨hsends, hparties⟩
    · exact ⟨hsends, hparties⟩
  · exact ⟨hsends, hparties⟩

theorem MixOk.setMonitor (hs : MixOk s) (q : PortIx) (tag : Byte) (pl : List Byte) : MixOk (setMonitor q tag pl s) := by
  rw [setMonitor_changes]
  exact ⟨hs.gains, hs.sends, hs.sources, hs.returns, hs.talks, hs.feeds, hs.oneBus⟩

/-! ## The other commands -/

/-- A state with the same mix meets the condition too; each operation beside the mix has its law in Laws/State. -/
theorem MixOk.beside (hs : MixOk s) (hm : t.mix = s.mix := by simp) (hp : t.partyMix = s.partyMix := by simp) : MixOk t := by
  rw [mixOk_iff] at hs ⊢
  rw [hm, hp]
  exact hs

/-- A command that changes nothing of the mix, by the law of what it changes in Laws/Commands. -/
theorem MixOk.changes (hs : MixOk s) {u : State} (h : t = u) (hm : u.mix = s.mix := by rfl)
    (hp : u.partyMix = s.partyMix := by rfl) : MixOk t := h ▸ hs.beside hm hp

/-- A live command has its effect, or none while RESET is asserted. -/
theorem MixOk.of_live {e : State} (hs : MixOk s) (h : live s e = .next t) (he : MixOk e) : MixOk t := by
  rw [live_next] at h
  split at h
  · exact h ▸ hs
  · exact h ▸ he

/-- A row that is a case of another event keeps what that event keeps. -/
theorem MixOk.of_case (hs : MixOk s) (b : Prop) [Decidable b] (ht : MixOk t) : MixOk (if b then t else s) := by
  split <;> assumption

/-- RESET brings the condition about, and every other command keeps it. -/
theorem exec_keeps_mix {c : Instr} (hs : MixOk s) (h : exec c s = .next t) : MixOk t := by
  cases c
  case reset => cases h; exact reset_mixOk.beside rfl rfl
  case resetRelease => cases h; exact ⟨hs.gains, hs.sends, hs.sources, hs.returns, hs.talks, hs.feeds, hs.oneBus⟩
  case nop => exact hs.of_live h hs
  case setSend q tag pl => exact hs.of_live h (hs.setSend q tag pl)
  case setMonitor q tag pl => exact hs.of_live h (hs.setMonitor q tag pl)
  case mePeriodStart => exact hs.of_live h hs.periodStart
  case frameComputation x => exact hs.of_live h (hs.frame x)
  case setEventMask q tag pl => exact hs.of_live h (hs.changes (setEventMask_changes q tag pl s))
  case readEvents q tag pl => exact hs.of_live h (hs.changes (readEvents_changes q tag pl s))
  case readParty q tag pl => exact hs.of_live h (hs.changes (readParty_changes q tag pl s))
  case setParty q tag pl => exact hs.of_live h (hs.changes (setParty_changes q tag pl s))
  case key q tag pl => exact hs.of_live h (hs.changes (keyCommand_changes q tag pl s))
  case setKey q tag pl => exact hs.of_live h (hs.changes (setKey_changes q tag pl s))
  case writeSteps q tag pl => exact hs.of_live h (hs.changes (writeSteps_changes q tag pl s))
  case writePitches q tag pl => exact hs.of_live h (hs.changes (writePitches_changes q tag pl s))
  case readToneMemory q tag pl => exact hs.of_live h (hs.changes (readToneMemory_changes q tag pl s))
  case setPlayer q tag pl => exact hs.of_live h (hs.changes (setPlayer_changes q tag pl s))
  case setToneRoute q tag pl => exact hs.of_live h (hs.changes (setToneRoute_changes q tag pl s))
  case setDelay q tag pl => exact hs.of_live h (hs.changes (setDelay_changes q tag pl s))
  case dump q tag pl => exact hs.of_live h (hs.changes (dump_changes q tag pl s))
  case setMemorySize q tag pl => exact hs.of_live h (hs.changes (setMemorySize_changes q tag pl s))
  case setMetering q tag pl => exact hs.of_live h (hs.changes (setMetering_changes q tag pl s))
  case setSupervisor q tag pl => exact hs.of_live h (hs.changes (setSupervisor_changes q tag pl s))
  case clearClips q tag pl => exact hs.of_live h (hs.changes (clearClips_changes q tag pl s))
  case setCell q tag pl => exact hs.of_live h (hs.changes (setCell_changes q tag pl s))
  case setGpo q tag pl => exact hs.of_live h (hs.changes (setGpo_changes q tag pl s))
  case setLineTiming q tag pl => exact hs.of_live h (hs.changes (setLineTiming_changes q tag pl s))
  case setClock q tag pl => exact hs.of_live h (hs.changes (setClock_changes q tag pl s))
  case readStatus | readTable | readKeys | readPlayers | readDelay | readMeters | readSupervisors | readLogic =>
    exact hs.of_live h (hs.changes (plainRead_changes _ _ _ s _))
  case answer | screen | hold | ready | privateTalk | take | drop =>
    exact hs.of_live h (hs.changes (stateCommand_changes _ _ _ s _ _ _ _))
  case start | stop | abort => exact hs.of_live h (hs.changes (playerCommand_changes _ _ _ s _))
  case dumpJump | stepComplete | abortFadeEnd | measurementComplete | waitingEnd | realign =>
    exact hs.of_live h (hs.of_case _ hs.beside)
  all_goals exact hs.of_live h hs.beside

/-- Settles O59: a step that runs a command keeps the condition on what ME holds. -/
theorem stepsKeepTheMix : Obligations.StepsKeepTheMix := by
  unfold Obligations.StepsKeepTheMix
  intro s t hs h
  rcases step_next h with rfl | ⟨c, rest, -, hc⟩
  · exact hs
  · have hrest : MixOk { s with pending := rest } := hs.beside rfl rfl
    exact exec_keeps_mix hrest hc

end Sys2Proof.Machine
end

section
/-! SUPPORT. The values that a frame forms (R63, R64, R66, R69, R75, R115): each within the sample range, so that the sample formed
is the value itself; and what a frame leaves of the state. -/

namespace Sys2Proof.Machine

variable {s : State} {x : FrameIn}

/-! ## What a frame leaves -/

theorem fc_rest :
    frameComputation x s = { s with
      mix := (frameComputation x s).mix, partyMix := (frameComputation x s).partyMix
      formed := (frameComputation x s).formed, formedBefore := (frameComputation x s).formedBefore
      sent := (frameComputation x s).sent, points := (frameComputation x s).points
      players := (frameComputation x s).players, ports := (frameComputation x s).ports
      memInUse := s.memSize, memPort := Vector.replicate 2 [] } := by
  unfold frameComputation endFrame raiseIf
  split <;> split <;> rfl

theorem fc_sends : (frameComputation x s).mix.sends = s.mix.sends := by
  by_cases h : s.mix.frame = 31
  · rw [(fc_last x h).1]; rfl
  · rw [(fc_running x h).1]

theorem fc_monitorStored : (frameComputation x s).mix.monitor = s.mix.monitor := by
  by_cases h : s.mix.frame = 31
  · rw [(fc_last x h).1]; rfl
  · rw [(fc_running x h).1]

/-! ## Ranges (R52, R66) -/

/-- A value in the sample range. -/
def InRange (v : Int) : Prop := -8388608 ≤ v ∧ v ≤ 8388607

theorem InRange.sat {v : Int} (h : InRange v) : sat v = v := sat_of_range h.1 h.2

/-- The two coefficients of a crossfade make unity, so that it stays between its ends (R66, R80). -/
theorem InRange.blend {a b : Int} (ha : InRange a) (hb : InRange b) (i : FrameIx) : InRange (blend i a b) := by
  obtain ⟨ha1, ha2⟩ := ha
  obtain ⟨hb1, hb2⟩ := hb
  have hsum : fadeOut i + fadeIn i = 16384 := by unfold fadeOut fadeIn; omega
  have ha1 := mul_le_mul_of_nonneg_right ha1 (fo_range i).1
  have ha2 := mul_le_mul_of_nonneg_right ha2 (fo_range i).1
  have hb1 := mul_le_mul_of_nonneg_right hb1 (fi_range i).1
  have hb2 := mul_le_mul_of_nonneg_right hb2 (fi_range i).1
  unfold Machine.blend rnd InRange
  omega

/-- A crossfade written out (R66). -/
theorem blend_eq (i : FrameIx) (a b : Int) :
    blend i a b = (a * (16384 - 512 * (i.val + 1)) + b * (512 * (i.val + 1)) + 8192) / 16384 := rfl

theorem mixValue_range (f : Feed) : InRange (mixValue s x f) := by
  cases f with
  | silence => exact sat_range 0
  | bus b m e => exact sat_range _
  | air k => exact air_range _ _ _

theorem partyMixValue_range (p : PartyIx) : InRange (partyMixValue s x p) := by
  unfold partyMixValue
  split
  · exact mixValue_range _
  · exact (mixValue_range _).blend (mixValue_range _) _

theorem monitorSignal_range (c : MonitorIx) : InRange (monitorSignal s x c) := by
  unfold monitorSignal
  split
  · exact sat_range _
  · split
    · exact sat_range _
    · exact air_range _ _ _

theorem monitorOut_range : InRange (monitorOut s x) := by
  unfold monitorOut
  split
  · exact monitorSignal_range _
  · exact (monitorSignal_range _).blend (monitorSignal_range _) _

/-! ## The samples formed -/

theorem fc_bus (b : BusIx) : (frameComputation x s).formed.buses[b].toInt = busOut s x b := by
  have hbus : (formedAfter s x).buses[b] = toSample (busOut s x b) := ofFn_get _ b
  rw [fc_formed, hbus]
  exact toSample_sat _

theorem fc_air (k : Programme) : (frameComputation x s).formed.air[k].toInt = airOut s x k := by
  have hair : (formedAfter s x).air[k] = toSample (airOut s x k) := ofFn_get _ k
  obtain ⟨hlow, hhigh⟩ : InRange (airOut s x k) := air_range _ _ _
  rw [fc_formed, hair]
  exact toSample_toInt hlow hhigh

theorem fc_return (p : PartyIx) : (frameComputation x s).formed.returns[p] = toSample (returnOut s x p) := by
  rw [fc_formed]; exact ofFn_get _ p

theorem fc_returnValue (p : PartyIx) : (frameComputation x s).formed.returns[p].toInt = returnOut s x p := by
  rw [fc_return]; exact toSample_sat _

theorem fc_monitor : (frameComputation x s).formed.monitor.toInt = monitorOut s x := by
  obtain ⟨hlow, hhigh⟩ := monitorOut_range (s := s) (x := x)
  rw [fc_formed]
  exact toSample_toInt hlow hhigh

/-! ## Sums over sources and parties (R62, R64) -/

/-- The bus accumulator as the sum of the sends and of the party terms (R62). -/
theorem busSum_eq (b : BusIx) : busSum s x b = (∑ n, sendTerm s x b n) + ∑ p, partyTerm s x b p := by
  unfold busSum; rw [sum_fin, sum_fin]

/-- What is left of a sum from which the terms of a set are subtracted: the sum of the others. -/
theorem sum_sub_masked {n : Nat} (f : Fin n → Int) (m : Mask n) :
    (∑ i, f i) - (∑ i : Fin n, if m[i] then f i else 0) = ∑ i : Fin n, if m[i] then 0 else f i := by
  rw [← Finset.sum_sub_distrib]
  refine Finset.sum_congr rfl fun i _ => ?_
  split <;> omega

/-- The exact subtraction: what a bus-derived feed leaves of its bus is the sum of the terms that it does not keep out (R64). -/
theorem mixSum_eq (b : BusIx) (minus : Mask 24) (excluded : Mask 16) :
    mixSum s x b minus excluded =
      (∑ n : StudioIx, if excluded[n] then 0 else sendTerm s x b n) + ∑ p : PartyIx, if minus[p] then 0 else partyTerm s x b p := by
  unfold mixSum
  rw [busSum_eq, sum_fin, sum_fin, ← sum_sub_masked, ← sum_sub_masked]
  ring

end Sys2Proof.Machine
end

section
/-! SUPPORT. The widths of the products and accumulators under coefficients in range (R52). -/

namespace Sys2Proof.Machine

variable {s : State} {x : FrameIn}

/-- The part of a difference that a ramp has covered, up to frame 31 (R79). -/
theorem rampPart_range {d k : Int} (hd : 0 ≤ d) (hk : 0 ≤ k) (hk' : k ≤ 32) : 0 ≤ (d * k).tdiv 32 ∧ (d * k).tdiv 32 ≤ d := by
  have hpos := mul_nonneg hd hk
  have hle := mul_le_mul_of_nonneg_left hk' hd
  rw [Int.tdiv_eq_ediv_of_nonneg hpos]
  omega

/-- A ramped coefficient stays within that of gain code 0 (R51, R79). -/
theorem Ramp.ok.rampAt {r : Ramp} (h : r.ok) (i : FrameIx) : 0 ≤ rampAt r i ∧ rampAt r i ≤ 32690 := by
  obtain ⟨hold, hnew⟩ := h
  have hi := i.isLt
  unfold Machine.rampAt
  rcases le_total r.old r.new with hle | hle
  · have hpart := rampPart_range (d := r.new - r.old) (k := i.val + 1) (by omega) (by omega) (by omega)
    omega
  · have hpart := rampPart_range (d := r.old - r.new) (k := i.val + 1) (by omega) (by omega) (by omega)
    have hneg : ((r.new : Int) - r.old) * (i.val + 1) = -((r.old - r.new) * (i.val + 1)) := by ring
    rw [hneg, Int.neg_tdiv]
    omega

/-- A product of a coefficient in range and a sample is below 2^38 in magnitude. -/
theorem product_lt {c v : Int} (hc : 0 ≤ c ∧ c ≤ 32690) (hv : InRange v) : |c * v| < 2 ^ 38 := by
  obtain ⟨hc0, hc1⟩ := hc
  have hmag : |v| ≤ 8388608 := abs_le.2 ⟨hv.1, by have := hv.2; omega⟩
  calc |c * v| = c * |v| := by rw [abs_mul, abs_of_nonneg hc0]
    _ ≤ 32690 * 8388608 := mul_le_mul hc1 hmag (abs_nonneg v) (by omega)
    _ < 2 ^ 38 := by norm_num

theorem audio_range (v : TdmSlot) : InRange (audio v) := sample_range _

theorem sourceSample_range (p : PartyIx) : InRange (sourceSample s x p) := by
  unfold sourceSample partyInput
  split
  · split <;> exact audio_range _
  · exact sat_range 0

theorem sendTerm_lt (h : MixOk s) (b : BusIx) (n : StudioIx) : |sendTerm s x b n| < 2 ^ 38 :=
  product_lt ((h.sends n b).rampAt _) (audio_range _)

theorem partyTerm_lt (h : MixOk s) (b : BusIx) (p : PartyIx) : |partyTerm s x b p| < 2 ^ 38 :=
  product_lt ((h.sources p b).rampAt _) (sourceSample_range p)

/-- A sum of n terms is within n times their bound. -/
theorem sum_abs_le {n : Nat} {f : Fin n → Int} {c : Int} (h : ∀ i, |f i| < c) : |∑ i, f i| ≤ n * c :=
  calc |∑ i, f i| ≤ ∑ i, |f i| := Finset.abs_sum_le_sum_abs _ _
    _ ≤ ∑ _i : Fin n, c := Finset.sum_le_sum fun i _ => (h i).le
    _ = n * c := by simp

/-- Forty terms below 2^38 stay below 2^44. -/
theorem busSum_lt (h : MixOk s) (b : BusIx) : |busSum s x b| < 2 ^ 44 := by
  rw [busSum_eq]
  calc |(∑ n, sendTerm s x b n) + ∑ p, partyTerm s x b p|
      ≤ |∑ n, sendTerm s x b n| + |∑ p, partyTerm s x b p| := abs_add_le _ _
    _ ≤ 16 * 2 ^ 38 + 24 * 2 ^ 38 := add_le_add (sum_abs_le (sendTerm_lt h b)) (sum_abs_le (partyTerm_lt h b))
    _ < 2 ^ 44 := by norm_num

end Sys2Proof.Machine
end

section
/-! SUPPORT. The meter points in a frame (R70, R73, R154, R158): the sample and the clip report of each, by its index. -/

namespace Sys2Proof.Machine

variable {s : State} {x : FrameIn} {n : PointIx} {p : PartyIx}

/-! ## The sample of a point (R73) -/

theorem meterSample_source (h : n.val = p.val) : meterSample s x n = sourceSample s x p := by
  unfold meterSample
  rw [dif_pos (by omega)]
  exact congrArg _ (Fin.ext h)

theorem meterSample_return (h : n.val = 24 + p.val) : meterSample s x n = returnOut s x p := by
  unfold meterSample
  rw [dif_neg (by omega), dif_pos (by omega)]
  exact congrArg _ (Fin.ext (by simp only; omega))

theorem meterSample_studio {m : StudioIx} (h : n.val = 48 + m.val) : meterSample s x n = audio x.stu[m] := by
  have hindex : n.val - 48 = m.val := by omega
  unfold meterSample
  rw [dif_neg (by omega), dif_neg (by omega), dif_pos (by omega)]
  simp only [hindex, Fin.getElem_fin]

theorem meterSample_bus {b : BusIx} (h : n.val = 64 + b.val) : meterSample s x n = busOut s x b := by
  unfold meterSample
  rw [dif_neg (by omega), dif_neg (by omega), dif_neg (by omega), dif_pos (by omega)]
  exact congrArg _ (Fin.ext (by simp only; omega))

theorem meterSample_air {k : Programme} (h : n.val = 69 + k.val) : meterSample s x n = airOut s x k := by
  unfold meterSample
  rw [dif_neg (by omega), dif_neg (by omega), dif_neg (by omega), dif_neg (by omega)]
  exact congrArg _ (Fin.ext (by simp only; omega))

/-! ## Clip reports (R70) -/

theorem clipReport_return (h : n.val = 24 + p.val) : clipReport s x n = returnClips s x p := by
  unfold clipReport
  rw [if_neg (by omega), dif_pos (by omega)]
  exact congrArg _ (Fin.ext (by simp only; omega))

theorem clipReport_bus {b : BusIx} (h : n.val = 64 + b.val) : clipReport s x n = saturates (rnd (busSum s x b)) := by
  unfold clipReport
  rw [if_neg (by omega), dif_neg (by omega), if_neg (by omega), dif_pos (by omega)]
  exact congrArg (fun b => saturates (rnd (busSum s x b))) (Fin.ext (by simp only; omega))

/-- Sources, studio inputs and air outputs get no clip reports (R158). -/
theorem clipReport_none (h : n.val < 24 ∨ (48 ≤ n.val ∧ n.val < 64) ∨ 69 ≤ n.val) : clipReport s x n = false := by
  unfold clipReport
  split
  · rfl
  · rw [dif_neg (by omega)]
    split
    · rfl
    · rw [dif_neg (by omega)]

/-- A mix value saturates where its feed is a bus-derived one whose sum leaves the sample range (R64, R70). -/
theorem mixClips_iff (f : Feed) :
    mixClips s x f = true ↔ ∃ b minus excluded, f = .bus b minus excluded ∧
      (rnd (mixSum s x b minus excluded) < -8388608 ∨ 8388607 < rnd (mixSum s x b minus excluded)) := by
  cases f with
  | silence => exact ⟨nofun, nofun⟩
  | air k => exact ⟨nofun, nofun⟩
  | bus b minus excluded =>
    refine (saturates_iff _).trans ⟨fun h => ⟨b, minus, excluded, rfl, h⟩, ?_⟩
    rintro ⟨b', minus', excluded', hf, h⟩
    cases hf
    exact h

/-- The mix values of two feeds saturate where one of the feeds is a bus-derived one whose wanted terms leave the sample range. -/
theorem mixClips_either (f g : Feed) :
    mixClips s x f = true ∨ mixClips s x g = true ↔
      ∃ (b : BusIx) (minus : Mask 24) (excluded : Mask 16), (f = .bus b minus excluded ∨ g = .bus b minus excluded) ∧
        let v := rnd ((∑ n : StudioIx, if excluded[n] then 0 else sendTerm s x b n) +
          ∑ j : PartyIx, if minus[j] then 0 else partyTerm s x b j)
        v < -8388608 ∨ 8388607 < v := by
  simp only [mixClips_iff, mixSum_eq, or_and_right, exists_or]

/-- The reports of a return point: its mix values and its three stages (R70). -/
theorem returnClips_iff :
    returnClips s x p = true ↔
      (mixClips s x s.partyMix[p].feedOld = true ∨ mixClips s x s.partyMix[p].feedNew = true) ∨
        saturates (foldBackRaw s x p) = true ∨ saturates (toneRaw s x p) = true ∨ saturates (returnRaw s x p) = true := by
  unfold returnClips
  simp only [Bool.or_eq_true, or_assoc]

/-! ## A point after a frame (R154, R158) -/

theorem pointAfter_clip : (pointAfter s x n).clip = true ↔ s.points[n].clip = true ∨ clipReport s x n = true := by
  rw [← Bool.or_eq_true]; rfl

theorem pointAfter_clip_clear (h : s.points[n].clip = false) : (pointAfter s x n).clip = true ↔ clipReport s x n = true := by
  rw [pointAfter_clip, h]; simp

theorem pointAfter_acc :
    (pointAfter s x n).acc =
      s.points[n].acc + if s.meter.phase = .measuring then min 8388607 (meterSample s x n).natAbs else 0 := by
  unfold pointAfter
  dsimp only
  split <;> rfl

/-- A new clip is a flag that goes from clear to set (R158). -/
theorem newClip_eq :
    newClip s x =
      decide (∃ n : PointIx, (frameComputation x s).points[n].clip = true ∧ s.points[n].clip = false) := by
  rw [Bool.eq_iff_iff, decide_eq_true_iff, newClip, List.any_eq_true]
  simp only [fc_points, Bool.and_eq_true, Bool.not_eq_true', List.mem_finRange, true_and]
  exact exists_congr fun n => ⟨fun ⟨hreport, hclear⟩ => ⟨pointAfter_clip.2 (.inr hreport), hclear⟩,
    fun ⟨hclip, hclear⟩ => ⟨(pointAfter_clip_clear hclear).1 hclip, hclear⟩⟩

end Sys2Proof.Machine
end

section
/-! SUPPORT. The stages of a return and its mix value (R60, R64 to R69), and what ME holds once a period is over (R79, R83, R86). -/

namespace Sys2Proof.Machine

variable {s : State} {x y : FrameIn} {p : PartyIx}

/-! ## What a feed keeps out (R60, R64) -/

/-- Party terms differ only where the samples of the party do. -/
theorem partyTerm_congr {b : BusIx} {j : PartyIx} (h : partyInput x j = partyInput y j) : partyTerm s x b j = partyTerm s y b j := by
  unfold partyTerm sourceSample; rw [h]

theorem sendTerm_congr (h : x.stu = y.stu) (b : BusIx) (n : StudioIx) : sendTerm s x b n = sendTerm s y b n := by
  unfold sendTerm; rw [h]

/-- The mix value of a feed does not depend on the parties that the feed keeps out (R60, R64). -/
theorem mixValue_congr {f : Feed} (hstu : x.stu = y.stu) (h : ∀ j : PartyIx, partyInput x j ≠ partyInput y j → f.hides j) :
    mixValue s x f = mixValue s y f := by
  have hsend := sendTerm_congr (s := s) hstu
  cases f with
  | silence => rfl
  | bus b minus excluded =>
    have hparty (j : PartyIx) : (if minus[j] then 0 else partyTerm s x b j) = if minus[j] then 0 else partyTerm s y b j := by
      by_cases hj : partyInput x j = partyInput y j
      · rw [partyTerm_congr hj]
      · have hout : minus[j] = true := h j hj
        rw [if_pos hout, if_pos hout]
    unfold mixValue
    dsimp only
    rw [mixSum_eq, mixSum_eq]
    simp only [hsend, hparty]
  | air k =>
    have hparty (b : BusIx) (j : PartyIx) : partyTerm s x b j = partyTerm s y b j := partyTerm_congr (by_contra (h j))
    have hbus : busOut s x (programmeBus k) = busOut s y (programmeBus k) := by
      unfold busOut
      rw [busSum_eq, busSum_eq]
      simp only [hsend, hparty]
    unfold mixValue airOut
    dsimp only
    rw [hbus]

/-- A return depends on the frame through its mix value and the studio slots alone (R67 to R69). -/
theorem returnOut_congr (hstu : x.stu = y.stu) (hmix : partyMixValue s x p = partyMixValue s y p) :
    returnOut s x p = returnOut s y p := by
  unfold returnOut returnRaw toneRaw foldBackRaw tailTerm useTerm
  rw [hmix, hstu]

/-! ## The stages (R67 to R69) -/

/-- The fold-back stage: the mix value itself without a key, and otherwise the mix value ducked with the talkback of the keys that
take part (R67). -/
theorem foldBack_eq :
    foldBackRaw s x p =
      if s.partyMix[p].keyUse = none ∧ s.partyMix[p].leaving = none then partyMixValue s x p
      else rnd (partyMixValue s x p * rampAt s.partyMix[p].duck s.mix.frame +
        (tailTerm x s.mix.frame s.partyMix[p].leaving + useTerm x s.mix.frame s.partyMix[p].keyUse)) := by
  unfold foldBackRaw
  simp only [Bool.and_eq_true, Option.isNone_iff_eq_none, Int.add_assoc]

/-- The fold-back stage clamped: without a key there is nothing to clamp (R67). -/
theorem foldBack_sat :
    sat (foldBackRaw s x p) =
      if s.partyMix[p].keyUse = none ∧ s.partyMix[p].leaving = none then partyMixValue s x p
      else sat (rnd (partyMixValue s x p * rampAt s.partyMix[p].duck s.mix.frame +
        (tailTerm x s.mix.frame s.partyMix[p].leaving + useTerm x s.mix.frame s.partyMix[p].keyUse))) := by
  rw [foldBack_eq, apply_ite sat, (partyMixValue_range p).sat]

/-- The tone stage adds the tones of the party's players, each rounded on its own (R68). -/
theorem tone_eq :
    toneRaw s x p = sat (foldBackRaw s x p) + ∑ j : PlayerIx,
      if s.partyMix[p].tonePlayers[j] then rnd (playerOut s.players[j] s.mix.frame * rampAt s.partyMix[p].tone s.mix.frame)
      else 0 := by
  unfold toneRaw; rw [sum_fin]

/-- A party whose feeds are silence, with no key and no tones, has the return 0 (R65). -/
theorem return_silent (hold : s.partyMix[p].feedOld = .silence) (hnew : s.partyMix[p].feedNew = .silence)
    (huse : s.partyMix[p].keyUse = none) (hleaving : s.partyMix[p].leaving = none)
    (htones : ∀ j : PlayerIx, s.partyMix[p].tonePlayers[j] = false) : returnOut s x p = 0 := by
  have hmix : partyMixValue s x p = 0 := by unfold partyMixValue; rw [hold, hnew, if_pos rfl]; rfl
  have htone : toneRaw s x p = 0 := by
    rw [tone_eq, foldBack_eq, if_pos ⟨huse, hleaving⟩, hmix]
    simp [htones, sat, -Fin.getElem_fin]
  unfold returnOut returnRaw
  rw [htone]
  simp [sat, rnd]

/-! ## What is held once a period is over (R79, R83, R86) -/

theorem fc_lastParty (h : s.mix.frame = 31) : (frameComputation x s).partyMix[p] = s.partyMix[p].settle := by
  rw [(fc_last x h).2]; exact ofFn_get _ p

end Sys2Proof.Machine
end

section
/-! OBLIGATIONS. Buses, mix values, returns and MONITOR in a frame. -/

namespace Sys2Proof.Machine

/-- Settles O28: the buses by their sum, the frame and the period by what a frame leaves, the widths by the coefficients in range. -/
theorem frameFormsTheBuses : Obligations.FrameFormsTheBuses := by
  unfold Obligations.FrameFormsTheBuses
  refine ⟨fun s x hr => ⟨_, live_of_released _ hr, fc_rest, fc_sends, fc_monitorStored, congrArg Formed.index (fc_formed x s),
    fc_running x, fun hlast => ?last, fun b => ?bus⟩, fun s x b hs => ⟨fun n => ?send, fun p => ?party, busSum_lt hs b⟩⟩
  case last =>
    obtain ⟨hm, -⟩ := fc_last x hlast
    rw [hm]
    refine ⟨rfl, rfl, rfl, rfl, settle_send _, fun p => ?_⟩
    rw [fc_lastParty hlast]
    exact ⟨settle_source _, rfl, rfl, rfl, rfl, rfl, rfl, rfl, rfl, rfl⟩
  case bus => exact (fc_bus b).trans (congrArg (fun a => sat (rnd a)) (busSum_eq b))
  case send => exact (sendTerm_lt hs b n).trans (by norm_num)
  case party => exact (partyTerm_lt hs b p).trans (by norm_num)

/-- Settles O29: the mix value by the exact subtraction, and the report at the party's return point by its mix values. -/
theorem mixMinusHoldsOnlyTheWantedTerms : Obligations.MixMinusHoldsOnlyTheWantedTerms := by
  unfold Obligations.MixMinusHoldsOnlyTheWantedTerms
  refine ⟨fun s x b minus excluded => congrArg (fun a => sat (rnd a)) (mixSum_eq b minus excluded),
    fun s x => ⟨rfl, fun hr => ⟨_, live_of_released _ hr, fun k => (fc_air k).symm⟩⟩, fun s x p => rfl,
    fun s x n p hr hn hclip => ⟨_, live_of_released _ hr, ?_⟩⟩
  have hreport : returnClips s x p = true := returnClips_iff.2 (.inl hclip)
  rw [fc_points]
  exact pointAfter_clip.2 (.inr (by rw [clipReport_return hn, hreport]))

/-- Settles O30: the mix value of each feed leaves out what the feed keeps out, and the rest of a return does not see the parties. -/
theorem noPartyHearsWhatItsFeedKeepsOut : Obligations.NoPartyHearsWhatItsFeedKeepsOut := by
  unfold Obligations.NoPartyHearsWhatItsFeedKeepsOut
  intro s x y p hr hstu h
  refine ⟨_, _, live_of_released _ hr, live_of_released _ hr, ?_⟩
  have hold := mixValue_congr (s := s) hstu fun j hj => (h j hj).1
  have hnew := mixValue_congr (s := s) hstu fun j hj => (h j hj).2
  have hmix : partyMixValue s x p = partyMixValue s y p := by unfold partyMixValue; rw [hold, hnew]
  rw [fc_return, fc_return, returnOut_congr hstu hmix]

/-- Settles O31: each stage by its equation, from the mix value to the return. -/
theorem returnIsFormedInStages : Obligations.ReturnIsFormedInStages := by
  unfold Obligations.ReturnIsFormedInStages
  intro s x p hr
  refine ⟨_, live_of_released _ hr, ?_, fun hold hnew huse hleaving htones => ?_⟩
  · intro i h m talk y z
    have hy : sat (foldBackRaw s x p) = y := foldBack_sat
    have hz : sat (toneRaw s x p) = z := by rw [tone_eq, hy]
    rw [fc_returnValue, returnOut, returnRaw, hz]
  · rw [fc_return, return_silent hold hnew huse hleaving htones]
    rfl

/-- Settles O32: the signal of a selection is the value that the same frame forms for it. -/
theorem monitorCrossfadesToItsSelection : Obligations.MonitorCrossfadesToItsSelection := by
  unfold Obligations.MonitorCrossfadesToItsSelection
  refine ⟨fun s hr => ⟨_, live_of_released _ hr, rfl, rfl⟩, fun s x hr => ⟨_, live_of_released _ hr, ?_⟩⟩
  intro signal
  have hsignal (c : MonitorIx) : monitorSignal s x c = signal c := by
    unfold monitorSignal signal
    by_cases hreturn : c.val < 24
    · rw [dif_pos hreturn, dif_pos hreturn]
      exact (fc_returnValue ⟨c.val, hreturn⟩).symm
    · rw [dif_neg hreturn, dif_neg hreturn]
      by_cases hbus : c.val < 29
      · rw [dif_pos hbus, dif_pos hbus]
        exact (fc_bus ⟨c.val - 24, by omega⟩).symm
      · rw [dif_neg hbus, dif_neg hbus]
        exact (fc_air ⟨c.val - 29, by omega⟩).symm
  refine ⟨fun h => ?_, fun h => ?_, fun h => ?_⟩
  · rw [fc_monitor, monitorOut, if_pos h, hsignal]
  · rw [fc_monitor, monitorOut, if_neg h, hsignal, hsignal, blend_eq]
  · obtain ⟨hm, -⟩ := fc_last x h
    rw [hm]
    exact ⟨rfl, rfl⟩

/-- Settles O34: the samples and reports by the index of the point, those of a return point by the party's stages. -/
theorem frameMetersAndReportsClips : Obligations.FrameMetersAndReportsClips := by
  unfold Obligations.FrameMetersAndReportsClips
  intro s x hr
  refine ⟨_, live_of_released _ hr, raised_of_ports fun j => by rw [frameComputation_ports, newClip_eq], ?_⟩
  intro leaves round i input source send term n
  rw [fc_points]
  refine ⟨rfl, rfl, ⟨meterSample s x n, fun p hn => meterSample_source hn, fun p hn => ?_, fun m hn => meterSample_studio hn,
    fun b hn => ?_, fun k hn => ?_, pointAfter_acc⟩, fun hset => pointAfter_clip.2 (.inl hset), fun b hn hclear => ?_,
    fun p hn hclear => ?_, fun hn => ?_⟩
  · rw [meterSample_return hn, fc_returnValue]
  · rw [meterSample_bus hn, fc_bus]
  · rw [meterSample_air hn, fc_air]
  · rw [pointAfter_clip_clear hclear, clipReport_bus hn, saturates_iff, busSum_eq]
    exact Iff.rfl
  · intro h mixed talk y z
    have hmixed : mixClips s x h.feedOld = true ∨ mixClips s x h.feedNew = true ↔ mixed :=
      mixClips_either _ _
    have hy : foldBackRaw s x p = y := foldBack_eq
    have hz : toneRaw s x p = z := by rw [tone_eq, hy]; rfl
    have hgain : returnRaw s x p = round (max (-8388608) (min 8388607 z) * rampAt h.ret i) := by rw [returnRaw, hz]; rfl
    rw [pointAfter_clip_clear hclear, clipReport_return hn, returnClips_iff, hmixed, saturates_iff, saturates_iff, saturates_iff, hy,
      hz, hgain]
  · unfold pointAfter
    rw [clipReport_none hn, Bool.or_false]

end Sys2Proof.Machine
end

section
/-! SUPPORT. SET SEND, SET MONITOR and SET LINE TIMING (R41, R55, R74): what a payload in range stores and how it is answered, and that
any other is ILLEGAL. -/

namespace Sys2Proof.Machine

variable {s : State} {q : PortIx} {tag : Byte} {pl : List Byte}

/-! ## SET SEND (R55) -/

/-- A send after the settings that SET SEND selects (R51, R55). -/
def sendStored (sl gain excl : Byte) (x : Send) : Send :=
  { gain := if sl.getLsbD 0 then if gain.toNat ≤ 192 then gain else 255 else x.gain
    excluded := if sl.getLsbD 1 then decide (excl ≠ 0) else x.excluded }

/-- SET SEND is adjusted by an exclusion above 1 that is selected, and by no gain (R51, R55). -/
theorem send_adjusted (sel0 sel1 held : Bool) (gain heldGain excl : Byte) :
    ((store sel0 (gainStored gain) heldGain).2 || (store sel1 (flagStored excl) held).2) = true ↔ sel1 = true ∧ 1 < excl.toNat := by
  cases sel0 <;> cases sel1 <;> simp [store, gainStored, flagStored, Nat.succ_le_iff]

/-- A payload of SET SEND that names a source and a bus. -/
theorem setSend_named (n : StudioIx) (b : BusIx) (sh sl gain excl : Byte) :
    setSend q tag [byte n.val, byte b.val, sh, sl, gain, excl] s =
      if s.ports[q].role = .engineering then
        let t := putSend n b (sendStored sl gain excl s.mix.sends[n][b]) s
        reply q tag (if sl.getLsbD 1 ∧ 1 < excl.toNat then .adjusted else .ok) (sendBody t n b) t
      else reply q tag .notAllowed (sendBody s n b) s := by
  have hn : fin? 16 (byte n.val).toNat = some n := fin_some n (byte_toNat (by omega))
  have hb : fin? 5 (byte b.val).toNat = some b := fin_some b (byte_toNat (by omega))
  unfold setSend
  simp only [hn, hb]
  rw [selected_lt sh sl 0 (by omega), selected_lt sh sl 1 (by omega), store_gain, store_flag, okOr_eq _ _ (send_adjusted ..)]
  rfl

theorem setSend_operands : ChecksPayload setSend 6 fun v _ => 16 ≤ v 0 ∨ 5 ≤ v 1 := by
  intro q tag pl s
  unfold setSend
  split
  · split
    · next hn hb =>
      refine .inr ⟨rfl, ?_⟩
      rintro (h | h)
      · exact Nat.not_le.2 (fin_lt hn) h
      · exact Nat.not_le.2 (fin_lt hb) h
    · exact .inl rfl
  · exact .inl rfl

/-! ## SET MONITOR (R74) -/

theorem setMonitor_named (m : MonitorIx) :
    setMonitor q tag [byte m.val] s =
      if s.ports[q].role = .engineering then reply q tag .ok [byte m.val] { s with mix := { s.mix with monitor := m } }
      else reply q tag .notAllowed [] s := by
  have hm : fin? 31 (byte m.val).toNat = some m := fin_some m (byte_toNat (by omega))
  unfold setMonitor
  simp only [hm]

theorem setMonitor_operands : ChecksPayload setMonitor 1 fun v _ => 31 ≤ v 0 := by
  intro q tag pl s
  unfold setMonitor
  split
  · split
    · exact .inl rfl
    · next hm => exact .inr ⟨rfl, Nat.not_le.2 (fin_lt hm)⟩
  · exact .inl rfl

/-- A command that answers ILLEGAL at another length or with an operand out of range, in one condition. -/
theorem ChecksPayload.illegal {c : PortIx → Byte → List Byte → Instr} {run : PortIx → Byte → List Byte → State → State} {len : Nat}
    {bad : (Nat → Nat) → (Nat → Nat → Prop) → Prop} (h : ChecksPayload run len bad)
    (hexec : exec (c q tag pl) s = live s (run q tag pl s)) (hr : s.inReset = false)
    (hbad : pl.length ≠ len ∨ bad (fun i => (pl.getD i 0).toNat) (fun i n => (pl.getD i 0).getLsbD n = true)) :
    ∃ t, exec (c q tag pl) s = .next t ∧ t = { s with ports := t.ports } ∧ Replied q tag .illegal [] 0 s t :=
  hbad.elim (h.length hexec hr) (h.operands hexec hr)

/-! ## SET LINE TIMING (R41) -/

theorem dropCode_byte (c : Byte) : byte (min 2 c.toNat) = if 2 < c.toNat then 2 else c := by
  split
  · next h => rw [Nat.min_eq_left h.le]; rfl
  · next h => rw [Nat.min_eq_right (Nat.not_lt.1 h), byte_self]

end Sys2Proof.Machine
end

section
/-! OBLIGATIONS. SET SEND, SET MONITOR and SET LINE TIMING. -/

namespace Sys2Proof.Machine

/-- Settles O24: each command by its payload in range and by its checks. -/
theorem sendsMonitorAndLineTimingAreStored : Obligations.SendsMonitorAndLineTimingAreStored := by
  unfold Obligations.SendsMonitorAndLineTimingAreStored
  refine ⟨fun s q tag sh sl g e n b hr => ⟨_, live_of_released _ hr, ?send⟩,
    fun s q tag pl hr hbad => setSend_operands.illegal rfl hr hbad,
    fun s q tag m hr => ⟨_, live_of_released _ hr, ?monitor⟩,
    fun s q tag pl hr hbad => setMonitor_operands.illegal rfl hr hbad,
    fun s q tag c hr => ⟨_, live_of_released _ hr, ?timing⟩,
    fun s q tag pl hr hlen => setLineTiming_checks.length rfl hr hlen, rfl, rfl, rfl⟩
  case send =>
    rw [setSend_named]
    by_cases hrole : s.ports[q].role = .engineering
    · rw [if_pos hrole, if_pos hrole]
      have hself := putSend_send (s := s) n n b b (sendStored sl g e s.mix.sends[n][b])
      rw [if_pos ⟨rfl, rfl⟩] at hself
      refine ⟨rfl, congrArg Send.gain hself, congrArg Send.excluded hself, fun m a hother => ?_, replied_of_ports rfl⟩
      exact (putSend_send ..).trans (if_neg fun h => hother.elim (· h.1) (· h.2))
    · rw [if_neg hrole, if_neg hrole]
      exact ⟨rfl, replied_self ..⟩
  case monitor =>
    rw [setMonitor_named]
    by_cases hrole : s.ports[q].role = .engineering
    · rw [if_pos hrole, if_pos hrole]
      exact ⟨rfl, replied_of_ports rfl⟩
    · rw [if_neg hrole, if_neg hrole]
      exact ⟨rfl, replied_self ..⟩
  case timing =>
    unfold setLineTiming
    dsimp only
    by_cases hrole : s.ports[q].role = .engineering
    · rw [if_pos hrole, if_pos hrole, dropCode_byte, okOr_eq _ _ decide_eq_true_iff]
      exact ⟨rfl, rfl, replied_of_ports rfl⟩
    · rw [if_neg hrole, if_neg hrole]
      exact ⟨rfl, replied_self ..⟩

end Sys2Proof.Machine
end

section
/-! SUPPORT. Ramped coefficients (R79): a ramp in each direction, its end, its range, and the line between its ends. -/

namespace Sys2Proof.Machine

variable {r : Ramp} {i : FrameIx}

/-- A falling ramp loses the part of the difference that a rising one gains: the truncation is toward zero (R79). -/
theorem rampAt_falling : rampAt r i = r.old - (((r.old : Int) - r.new) * (i.val + 1)).tdiv 32 := by
  have hneg : ((r.new : Int) - r.old) * (i.val + 1) = -((r.old - r.new) * (i.val + 1)) := by ring
  rw [rampAt, hneg, Int.neg_tdiv, ← sub_eq_add_neg]

/-- The new value is held at frame 31 (R79). -/
theorem rampAt_last : rampAt r 31 = r.new := by
  have hpart : (((r.new : Int) - r.old) * 32).tdiv 32 = r.new - r.old := Int.mul_tdiv_cancel _ (by decide)
  calc rampAt r 31 = r.old + (((r.new : Int) - r.old) * 32).tdiv 32 := rfl
    _ = r.new := by rw [hpart, add_sub_cancel]

/-- A coefficient that does not differ stands (R79). -/
theorem rampAt_still (h : r.old = r.new) : rampAt r i = r.old := by
  simp [rampAt, h]

/-- The part of a difference that a ramp has covered is its share of the line, less than one unit short of it (R79). -/
theorem rampPart_line {d k : Int} (hd : 0 ≤ d) (hk : 0 ≤ k) :
    32 * (d * k).tdiv 32 ≤ d * k ∧ d * k < 32 * ((d * k).tdiv 32 + 1) := by
  rw [Int.tdiv_eq_ediv_of_nonneg (mul_nonneg hd hk)]
  omega

/-- A rising ramp stays between its ends. -/
theorem rampAt_range_of_le (h : r.old ≤ r.new) : (r.old : Int) ≤ rampAt r i ∧ rampAt r i ≤ r.new := by
  have hpart := rampPart_range (d := r.new - r.old) (k := i.val + 1) (by omega) (by omega) (by omega)
  rw [rampAt]
  omega

/-- A falling ramp stays between its ends. -/
theorem rampAt_range_of_ge (h : r.new ≤ r.old) : (r.new : Int) ≤ rampAt r i ∧ rampAt r i ≤ r.old := by
  have hpart := rampPart_range (d := r.old - r.new) (k := i.val + 1) (by omega) (by omega) (by omega)
  rw [rampAt_falling]
  omega

/-- A ramp stays between its ends in either direction. -/
theorem rampAt_between : (min r.old r.new : Nat) ≤ rampAt r i ∧ rampAt r i ≤ (max r.old r.new : Nat) := by
  rcases le_total r.old r.new with h | h
  · rw [min_eq_left h, max_eq_right h]
    exact rampAt_range_of_le h
  · rw [min_eq_right h, max_eq_left h]
    exact rampAt_range_of_ge h

/-- A rising ramp is on the line between its ends or less than one unit below it. -/
theorem rampAt_line_of_le (h : r.old ≤ r.new) :
    32 * (rampAt r i - r.old) ≤ (r.new - r.old) * (i.val + 1) ∧
      ((r.new : Int) - r.old) * (i.val + 1) < 32 * (rampAt r i - r.old + 1) := by
  rw [rampAt, add_sub_cancel_left]
  exact rampPart_line (by omega) (by omega)

/-- A falling ramp is on the line between its ends or less than one unit above it. -/
theorem rampAt_line_of_ge (h : r.new ≤ r.old) :
    ((r.new : Int) - r.old) * (i.val + 1) ≤ 32 * (rampAt r i - r.old) ∧
      32 * (rampAt r i - r.old - 1) < ((r.new : Int) - r.old) * (i.val + 1) := by
  have hline := rampPart_line (d := (r.old : Int) - r.new) (k := i.val + 1) (by omega) (by omega)
  have hneg : ((r.new : Int) - r.old) * (i.val + 1) = -((r.old - r.new) * (i.val + 1)) := by ring
  rw [rampAt_falling, hneg]
  omega

end Sys2Proof.Machine
end

section
/-! SUPPORT. The fold-back stage of a period start (R86 to R89): when a change is held, and what each pair of the key held and the key
in service gives. -/

namespace Sys2Proof.Machine

variable {s : State} {p : PartyIx} {h : PartyMix} {u : KeyUse} {k : KeyIx}

/-! ## The stage of the context that a period start gives -/

@[simp] theorem partyMixAfter_duck : (partyMixAfter s p).duck = (foldBackStage s p).duck := rfl

@[simp] theorem partyMixAfter_leaving : (partyMixAfter s p).leaving = (foldBackStage s p).leaving := rfl

@[simp] theorem partyMixAfter_keyUse : (partyMixAfter s p).keyUse = (foldBackStage s p).keyUse := rfl

/-! ## Held or taken (R88, R89) -/

/-- A period that starts is a feed transition of a party to a feed that is not silence (R83, R88). -/
def TransitsToSound (h : PartyMix) : Prop := h.feedOld ≠ h.feedNew ∧ h.feedNew ≠ .silence

/-- A change is held in a transition to a feed that is not silence (R88). -/
theorem holdsFoldBack_iff : holdsFoldBack s p = true ↔ TransitsToSound (partyMixAfter s p) := by
  rw [holdsFoldBack, Bool.and_eq_true, bne_iff_ne, bne_iff_ne]
  rfl

theorem foldBackStage_held (hf : TransitsToSound (partyMixAfter s p)) :
    foldBackStage s p = foldBackHeld s.partyMix[p] := if_pos (holdsFoldBack_iff.2 hf)

theorem foldBackStage_taken (hf : ¬TransitsToSound (partyMixAfter s p)) :
    foldBackStage s p = foldBackTaken s p s.partyMix[p] := if_neg fun hh => hf (holdsFoldBack_iff.1 hh)

/-! ## The stage taken, by the key held and the key in service (R86) -/

theorem foldBackTaken_unkeyed (hu : h.keyUse = none) (hk : s.foldBacks[p].inService = none) :
    foldBackTaken s p h = { h with duck := h.duck.toward 16384, leaving := none, keyUse := none } := by
  rw [foldBackTaken, hu, hk]

theorem foldBackTaken_entering (hu : h.keyUse = none) (hk : s.foldBacks[p].inService = some k) :
    foldBackTaken s p h =
      { h with duck := h.duck.toward (coef s.keys[k].duck), leaving := none, keyUse := some (keyEntering s k) } := by
  rw [foldBackTaken, hu, hk]

theorem foldBackTaken_leaving (hu : h.keyUse = some u) (hk : s.foldBacks[p].inService = none) :
    foldBackTaken s p h = { h with duck := h.duck.toward 16384, leaving := some (keyLeaving u), keyUse := none } := by
  rw [foldBackTaken, hu, hk]

/-- The key stays, with its source, and ramps to its codes. -/
theorem foldBackTaken_staying (hu : h.keyUse = some u) (hk : s.foldBacks[p].inService = some k)
    (hsame : u.key = k ∧ u.source = s.keys[k].source) :
    foldBackTaken s p h =
      { h with
        duck := h.duck.toward (coef s.keys[k].duck), leaving := none
        keyUse := some { u with talk := u.talk.toward (coef s.keys[k].talk) } } := by
  rw [foldBackTaken, hu, hk]
  exact if_pos hsame

/-- Another key, or another source of the key: the one leaves as the other enters. -/
theorem foldBackTaken_changing (hu : h.keyUse = some u) (hk : s.foldBacks[p].inService = some k)
    (hother : ¬(u.key = k ∧ u.source = s.keys[k].source)) :
    foldBackTaken s p h =
      { h with
        duck := h.duck.toward (coef s.keys[k].duck), leaving := some (keyLeaving u), keyUse := some (keyEntering s k) } := by
  rw [foldBackTaken, hu, hk]
  exact if_neg hother

end Sys2Proof.Machine
end

section
/-! OBLIGATIONS. Ramps and key changes. -/

namespace Sys2Proof.Machine

/-- Settles O27: the landing, the range and the line of a ramp in each direction. -/
theorem rampsLandInTheirPeriod : Obligations.RampsLandInTheirPeriod := by
  unfold Obligations.RampsLandInTheirPeriod
  intro r i
  obtain ⟨hlow, hhigh⟩ := rampAt_between (r := r) (i := i)
  exact ⟨rampAt_last, rampAt_still, hlow, hhigh, rampAt_line_of_le, rampAt_line_of_ge⟩

/-- Settles O26: the stage is held, or is taken by the key held and the key in service. -/
theorem keyChangesRampOrAreHeld : Obligations.KeyChangesRampOrAreHeld := by
  unfold Obligations.KeyChangesRampOrAreHeld
  intro s p hr
  refine ⟨mePeriod s, live_of_released _ hr, ?_⟩
  rw [pm_get]
  simp only [partyMixAfter_duck, partyMixAfter_leaving, partyMixAfter_keyUse]
  split
  case isTrue hf =>
    rw [foldBackStage_held hf]
    exact ⟨rfl, rfl, rfl⟩
  case isFalse hf =>
    rw [foldBackStage_taken hf]
    cases hu : s.partyMix[p].keyUse with
    | none =>
      cases hk : s.foldBacks[p].inService with
      | none =>
        rw [foldBackTaken_unkeyed hu hk]
        exact ⟨rfl, rfl, rfl, rfl⟩
      | some k =>
        rw [foldBackTaken_entering hu hk]
        exact ⟨rfl, rfl, rfl, rfl⟩
    | some u =>
      cases hk : s.foldBacks[p].inService with
      | none =>
        rw [foldBackTaken_leaving hu hk]
        exact ⟨rfl, rfl, rfl, rfl⟩
      | some k =>
        by_cases hsame : u.key = k ∧ u.source = s.keys[k].source
        · rw [foldBackTaken_staying hu hk hsame]
          refine ⟨rfl, rfl, ?_⟩
          rw [if_pos hsame, ← hsame.1]
          exact ⟨rfl, rfl⟩
        · rw [foldBackTaken_changing hu hk hsame]
          refine ⟨rfl, rfl, ?_⟩
          rw [if_neg hsame]
          exact ⟨rfl, rfl⟩

end Sys2Proof.Machine
end

section
/-! SUPPORT. The arrivals at a party's context (R98 to R100): what each does there, in the terms of its rule. -/

namespace Sys2Proof.Machine

variable {pri : KeyIx → Nat} {e c : Bool} {k j : KeyIx} {f : FoldBack} {s : State} {p : PartyIx}

/-! ## A context served anew (R97) -/

/-- Selection at a context: the key of R97 where the fold-back is on, the party connected and a key listed, and none otherwise. -/
def ServedAnew (pri : KeyIx → Nat) (e c : Bool) (g : FoldBack) : Prop :=
  if e ∧ c ∧ g.list ≠ [] then ∃ j, g.inService = some j ∧ Selected pri g.list j else g.inService = none

theorem serve_servedAnew (h : f.inService = none) : ServedAnew pri e c (serve pri e c f) := by
  obtain ⟨hselected, hnone⟩ := serve_fresh pri e c f h
  unfold ServedAnew
  rw [serve_list]
  split
  · next hserved =>
    obtain ⟨he, hc, hl⟩ := hserved
    obtain ⟨j, hj⟩ := Option.ne_none_iff_exists'.1 fun hn => (hnone.1 hn).elim hl (by simp [he, hc])
    exact ⟨j, hj, hselected j hj⟩
  · next hserved =>
    rw [hnone]
    by_contra hother
    obtain ⟨hl, he, hc⟩ : f.list ≠ [] ∧ e = true ∧ c = true := by simpa using hother
    exact hserved ⟨he, hc, hl⟩

/-! ## REQUEST (R98) -/

/-- What a request of a key does at a context, before and after it. -/
def RequestTaken (pri : KeyIx → Nat) (e c : Bool) (k : KeyIx) (f g : FoldBack) : Prop :=
  if c = false ∨ k ∈ f.list then g = f
  else g.list = f.list ++ [k] ∧
    if e = false then g.inService = f.inService
    else match f.inService with
      | none => ServedAnew pri e c g
      | some j => g.inService = some (if pri k < pri j then k else j)

theorem takeRequest_refused (h : c = false ∨ k ∈ f.list) : takeRequest pri e c k f = f :=
  if_pos (by simpa using h)

theorem takeRequest_unserved (hc : c = true) (hk : k ∉ f.list) (he : e = false) :
    takeRequest pri e c k f = { f with list := f.list ++ [k] } := by
  simp [takeRequest, hc, hk, he]

theorem takeRequest_idle (hc : c = true) (hk : k ∉ f.list) (he : e = true) (hf : f.inService = none) :
    takeRequest pri e c k f = serve pri e c { f with list := f.list ++ [k] } := by
  simp [takeRequest, hc, hk, he, hf]

theorem takeRequest_serving (hc : c = true) (hk : k ∉ f.list) (he : e = true) (hf : f.inService = some j) :
    takeRequest pri e c k f = { list := f.list ++ [k], inService := some (if pri k < pri j then k else j) } := by
  simp only [takeRequest, hc, he, hf, Bool.not_true, Bool.false_or, List.contains_iff_mem, hk, if_false, Bool.false_eq_true]
  split <;> rfl

theorem takeRequest_taken : RequestTaken pri e c k f (takeRequest pri e c k f) := by
  unfold RequestTaken
  split
  case isTrue h => exact takeRequest_refused h
  case isFalse h =>
    obtain ⟨hc, hk⟩ : c = true ∧ k ∉ f.list := by simpa using h
    refine ⟨(takeRequest_list ..).trans (if_neg h), ?_⟩
    split
    case isTrue he => rw [takeRequest_unserved hc hk he]
    case isFalse he =>
      have he : e = true := by simpa using he
      cases hf : f.inService with
      | none =>
        rw [takeRequest_idle hc hk he hf]
        exact serve_servedAnew hf
      | some j => exact congrArg FoldBack.inService (takeRequest_serving hc hk he hf)

/-! ## RELEASE (R99) -/

/-- What a release of a key does at a context, before and after it. -/
def ReleaseTaken (pri : KeyIx → Nat) (e c : Bool) (k : KeyIx) (f g : FoldBack) : Prop :=
  if k ∈ f.list then g.list = f.list.erase k ∧
    if f.inService = some k then ServedAnew pri e c g else g.inService = f.inService
  else g = f

theorem takeRelease_unlisted (hk : k ∉ f.list) : takeRelease pri e c k f = f := if_neg (by simpa using hk)

theorem takeRelease_serving (hk : k ∈ f.list) (hf : f.inService = some k) :
    takeRelease pri e c k f = serve pri e c { list := f.list.erase k, inService := none } := by
  simp [takeRelease, hk, hf]

theorem takeRelease_waiting (hk : k ∈ f.list) (hf : f.inService ≠ some k) :
    takeRelease pri e c k f = { f with list := f.list.erase k } := by
  simp [takeRelease, hk, hf]

theorem takeRelease_taken : ReleaseTaken pri e c k f (takeRelease pri e c k f) := by
  unfold ReleaseTaken
  split
  case isTrue hk =>
    refine ⟨takeRelease_list .., ?_⟩
    split
    case isTrue hf =>
      rw [takeRelease_serving hk hf]
      exact serve_servedAnew rfl
    case isFalse hf => rw [takeRelease_waiting hk hf]
  case isFalse hk => exact takeRelease_unlisted hk

/-! ## RECONSIDERATION (R100) -/

/-- A reconsideration at a context whose list may hold the key. -/
def reconsiderListed (pri : KeyIx → Nat) (e c : Bool) (k : KeyIx) (f : FoldBack) : FoldBack :=
  if f.list.contains k then reconsider pri e c f else f

/-- What a reconsideration of a key does at a context, before and after it. -/
def ReconsiderationTaken (pri : KeyIx → Nat) (e c : Bool) (k : KeyIx) (f g : FoldBack) : Prop :=
  g.list = f.list ∧
    if k ∈ f.list then
      match f.inService with
      | none => ServedAnew pri e c g
      | some j => if ∃ i ∈ f.list, pri i < pri j then ∃ i, g.inService = some i ∧ Selected pri f.list i
          else g.inService = some j
    else g = f

theorem reconsider_idle (hf : f.inService = none) : reconsider pri e c f = serve pri e c f := by
  simp [reconsider, hf]

/-- A key in service gives way to the key of R97 where a listed key has a strictly higher priority, and to none otherwise. -/
theorem reconsider_serving (hf : f.inService = some j) :
    if ∃ i ∈ f.list, pri i < pri j then ∃ i, (reconsider pri e c f).inService = some i ∧ Selected pri f.list i
    else (reconsider pri e c f).inService = some j := by
  unfold reconsider
  rw [hf]
  dsimp only
  cases hb : selectKey pri f.list with
  | none =>
    rw [selectKey_none.1 hb]
    simpa using hf
  | some b =>
    have hselected := selectKey_selected hb
    by_cases hlt : pri b < pri j
    · rw [if_pos ⟨b, hselected.mem, hlt⟩]
      exact ⟨b, congrArg FoldBack.inService (if_pos hlt), hselected⟩
    · rw [if_neg]
      · exact (congrArg FoldBack.inService (if_neg hlt)).trans hf
      · rintro ⟨i, hi, hij⟩
        exact hlt ((hselected.least i hi).trans_lt hij)

theorem reconsiderListed_taken : ReconsiderationTaken pri e c k f (reconsiderListed pri e c k f) := by
  unfold ReconsiderationTaken
  by_cases hk : k ∈ f.list
  · have heq : reconsiderListed pri e c k f = reconsider pri e c f := if_pos (by simpa using hk)
    rw [heq, if_pos hk]
    refine ⟨reconsider_list .., ?_⟩
    cases hf : f.inService with
    | none =>
      rw [reconsider_idle hf]
      exact serve_servedAnew hf
    | some j => exact reconsider_serving hf
  · have heq : reconsiderListed pri e c k f = f := if_neg (by simpa using hk)
    rw [heq, if_neg hk]
    exact ⟨rfl, rfl⟩

/-! ## An arrival in the state -/

/-- The context of the party that an arrival reaches. -/
theorem atContext_foldBack_self (g : (KeyIx → Nat) → Bool → Bool → FoldBack → FoldBack) :
    (atContext g p s).foldBacks[p] =
      g (priorityOf s) s.parties[p].foldBack s.parties[p].state.connected s.foldBacks[p] := set_get_self ..

/-- An arrival touches no other context. -/
theorem atContext_sameBut (g : (KeyIx → Nat) → Bool → Bool → FoldBack → FoldBack) :
    SameBut p s.foldBacks (atContext g p s).foldBacks := sameBut_set _ _ _

theorem exec_request (hr : s.inReset = false) :
    exec (.request k p) s = .next (atContext (fun pri e c f => takeRequest pri e c k f) p s) := live_of_released _ hr

theorem exec_release (hr : s.inReset = false) :
    exec (.release k p) s = .next (atContext (fun pri e c f => takeRelease pri e c k f) p s) := live_of_released _ hr

theorem exec_reconsideration (hr : s.inReset = false) :
    exec (.reconsideration k p) s = .next (atContext (fun pri e c f => reconsiderListed pri e c k f) p s) :=
  live_of_released _ hr

/-- An arrival that keeps the conditions on contexts keeps the law of R97 at its party. -/
theorem servesHighest_atContext {g : (KeyIx → Nat) → Bool → Bool → FoldBack → FoldBack} (keeps : KeepsContext g)
    (hs : FoldBacksOk s) (h : ServesHighest (priorityOf s) s.foldBacks[p]) :
    ServesHighest (priorityOf (atContext g p s)) (atContext g p s).foldBacks[p] := by
  rw [atContext_foldBack_self]
  exact (keeps _ _ _ _ ((foldBacksOk_iff s).1 hs p)).2 h

/-- A reconsideration of a listed key establishes the law of R97 at its party (R100). -/
theorem servesHighest_reconsideration (hk : k ∈ s.foldBacks[p].list) :
    ServesHighest (priorityOf s) (atContext (fun pri e c f => reconsiderListed pri e c k f) p s).foldBacks[p] := by
  rw [atContext_foldBack_self, reconsiderListed, if_pos (by simpa using hk)]
  exact .of_reconsider

end Sys2Proof.Machine
end

section
/-! OBLIGATIONS. Requests, releases and reconsiderations at a party. -/

namespace Sys2Proof.Machine

/-- Settles O37: each arrival by its effect at the context, and the law of R97 by what each keeps or establishes. -/
theorem requestsReleasesAndReconsiderations : Obligations.RequestsReleasesAndReconsiderations := by
  unfold Obligations.RequestsReleasesAndReconsiderations
  refine ⟨fun s k p hr => ⟨⟨_, exec_request hr, rfl, atContext_sameBut _, ?request⟩,
    ⟨_, exec_release hr, rfl, atContext_sameBut _, ?release⟩,
    ⟨_, exec_reconsideration hr, rfl, atContext_sameBut _, ?reconsideration⟩⟩,
    fun s k p hr hs => ⟨fun i hi h => ?keeps, fun hk => ⟨_, exec_reconsideration hr, servesHighest_reconsideration hk⟩⟩⟩
  case request =>
    rw [atContext_foldBack_self]
    exact takeRequest_taken
  case release =>
    rw [atContext_foldBack_self]
    exact takeRelease_taken
  case reconsideration =>
    rw [atContext_foldBack_self]
    exact reconsiderListed_taken
  case keeps =>
    obtain rfl | rfl : i = .request k p ∨ i = .release k p := by simpa using hi
    · exact ⟨_, exec_request hr, servesHighest_atContext (request_keeps k) hs h⟩
    · exact ⟨_, exec_release hr, servesHighest_atContext (release_keeps k) hs h⟩

end Sys2Proof.Machine
end

section
/-! SUPPORT. A key stored (R93, R105): what its arrival does at each party's context, in the terms of the rows RELEASE, REQUEST and
RECONSIDERATION. -/

namespace Sys2Proof.Machine

variable {s : State} {k : KeyIx} {new : Key} {p : PartyIx}

/-! ## The key as stored -/

@[simp] theorem storeKey_key : (storeKey k new s).keys[k] = new := set_get_self ..

theorem storeKey_sameBut : SameBut k s.keys (storeKey k new s).keys := sameBut_set _ _ _

/-- The state with a key stored and no context reached yet. -/
def withKeyStored (k : KeyIx) (new : Key) (s : State) : State := { s with keys := s.keys.set k new }

/-! ## The arrival of a stored key at a context (R105) -/

/-- The state u after the release or the request that a stored key sends to a party that leaves or enters its reach (R105). -/
def ReachTaken (k : KeyIx) (new : Key) (s : State) (p : PartyIx) (u : State) : Prop :=
  if s.keys[k].reach p = true ∧ new.reach p = false then exec (.release k p) (withKeyStored k new s) = .next u
  else if s.keys[k].reach p = false ∧ new.reach p = true then exec (.request k p) (withKeyStored k new s) = .next u
  else u = withKeyStored k new s

/-- The change of reach at a party, as an arrival at its context. -/
def reachTaken (k : KeyIx) (new : Key) (p : PartyIx) (s : State) : State :=
  atContext (fun pri e c f =>
    keyTaken pri e c k (s.keys[k].reach p && !new.reach p) (new.reach p && !s.keys[k].reach p) false f) p (withKeyStored k new s)

/-- An arrival that does nothing at its context does nothing. -/
theorem atContext_id : atContext (fun _ _ _ f => f) p s = s := by
  unfold atContext
  rw [set_self]

theorem reachTaken_taken (hr : s.inReset = false) : ReachTaken k new s p (reachTaken k new p s) := by
  have hr : (withKeyStored k new s).inReset = false := hr
  unfold ReachTaken reachTaken
  cases s.keys[k].reach p <;> cases new.reach p
  · exact atContext_id
  · exact exec_request hr
  · exact exec_release hr
  · exact atContext_id

/-- A stored key gives each context the change of its reach and then, where its priority changes, its reconsideration (R105). -/
theorem foldBackStored_eq :
    foldBackStored k new s p =
      if new.priority ≠ s.keys[k].priority then
        (atContext (fun pri e c f => reconsiderListed pri e c k f) p (reachTaken k new p s)).foldBacks[p]
      else (reachTaken k new p s).foldBacks[p] := by
  have hreach : (reachTaken k new p s).foldBacks[p] = _ := atContext_foldBack_self _
  by_cases h : new.priority = s.keys[k].priority
  · rw [if_neg (not_not_intro h), hreach, foldBackStored, bne_eq_false_iff_eq.2 h]
    rfl
  · rw [if_pos h, atContext_foldBack_self, hreach, foldBackStored, bne_iff_ne.2 h, keyTaken_changed]
    simp only [reconsiderListed, List.contains_iff_mem]
    rfl

/-- What a stored key does at a context, by the rows of the table (R105). -/
theorem foldBackStored_arrivals (hr : s.inReset = false) :
    ∃ u v, ReachTaken k new s p u ∧
      (if new.priority ≠ s.keys[k].priority then exec (.reconsideration k p) u = .next v else v = u) ∧
      foldBackStored k new s p = v.foldBacks[p] := by
  have htaken := reachTaken_taken (k := k) (new := new) (p := p) hr
  rw [foldBackStored_eq]
  split
  · exact ⟨_, _, htaken, exec_reconsideration hr, rfl⟩
  · exact ⟨_, _, htaken, rfl, rfl⟩

end Sys2Proof.Machine
end

section
/-! SUPPORT. KEY and KEY_TRIGGER (R93 to R95): the key they re-form, and what it asks of the parties of its destination set. -/

namespace Sys2Proof.Machine

variable {s : State} {q : PortIx} {tag : Byte} {k : KeyIx} {new : Key} {p : PartyIx}

/-! ## A key that goes active or inactive (R93) -/

/-- The state u after the request or the release that a re-formed key sends to a party of its destination set (R93). -/
def ReformTaken (k : KeyIx) (new : Key) (s : State) (p : PartyIx) (u : State) : Prop :=
  if new.active = true ∧ s.keys[k].active = false ∧ s.keys[k].dest[p] = true then
    exec (.request k p) (withKeyStored k new s) = .next u
  else if new.active = false ∧ s.keys[k].active = true ∧ s.keys[k].dest[p] = true then
    exec (.release k p) (withKeyStored k new s) = .next u
  else u = s

/-- A key that keeps its priority and destination set asks the parties of the set as it goes active and releases them as it goes
inactive (R93, R98, R99). -/
theorem foldBackStored_reformed (hr : s.inReset = false) (hpriority : new.priority = s.keys[k].priority)
    (hdest : new.dest = s.keys[k].dest) : ∃ u, ReformTaken k new s p u ∧ foldBackStored k new s p = u.foldBacks[p] := by
  have hleft : (s.keys[k].reach p = true ∧ new.reach p = false) ↔
      (new.active = false ∧ s.keys[k].active = true ∧ s.keys[k].dest[p] = true) := by
    unfold Key.reach
    rw [hdest]
    cases s.keys[k].dest[p] <;> simp [and_comm]
  have hjoined : (s.keys[k].reach p = false ∧ new.reach p = true) ↔
      (new.active = true ∧ s.keys[k].active = false ∧ s.keys[k].dest[p] = true) := by
    unfold Key.reach
    rw [hdest]
    cases s.keys[k].dest[p] <;> simp [and_comm]
  have htaken := reachTaken_taken (k := k) (new := new) (p := p) hr
  rw [foldBackStored_eq, if_neg (not_not_intro hpriority)]
  generalize reachTaken k new p s = u at htaken
  simp only [ReachTaken, hleft, hjoined] at htaken
  unfold ReformTaken
  by_cases hon : new.active = true ∧ s.keys[k].active = false ∧ s.keys[k].dest[p] = true
  · rw [if_neg (by simp [hon.1]), if_pos hon] at htaken
    exact ⟨u, by rwa [if_pos hon], rfl⟩
  · rw [if_neg hon] at htaken
    simp only [if_neg hon]
    by_cases hoff : new.active = false ∧ s.keys[k].active = true ∧ s.keys[k].dest[p] = true
    · rw [if_pos hoff] at htaken
      exact ⟨u, by rwa [if_pos hoff], rfl⟩
    · rw [if_neg hoff] at htaken
      exact ⟨s, by rw [if_neg hoff], by rw [htaken]; rfl⟩

/-- A key that is re-formed is stored with the active flag that its latches and trigger output give (R93). -/
theorem reform_eq {x : Key} {now : Bool} (h : x.wanted = now) : reform k x s = storeKey k { x with active := now } s := by
  rw [reform, h]

/-! ## KEY (R94) -/

/-- The latches after OFF, ON and OFF-ALL of a port, by the number of the action (R94). -/
def latchesActed (q : PortIx) (a : Fin 3) (l : Vector Bool 3) : Vector Bool 3 :=
  if a = 0 then l.set q false else if a = 1 then l.set q true else Vector.replicate 3 false

/-- The action that a byte of 0 to 2 names: OFF-ALL is 2, and its effect on the latches is that of its number (R94). -/
theorem keyActionOf_byte (a : Fin 3) :
    ∃ action, keyActionOf (byte a.val) = some action ∧ (action = none ↔ a = 2) ∧
      ∀ q l, latchesAfter q action l = latchesActed q a l := by
  fin_cases a
  · exact ⟨some false, rfl, by decide, fun _ _ => rfl⟩
  · exact ⟨some true, rfl, by decide, fun _ _ => rfl⟩
  · exact ⟨none, rfl, by decide, fun _ _ => rfl⟩

/-- A payload of KEY that names a key and an action. -/
theorem keyCommand_named (a : Fin 3) :
    keyCommand q tag [byte k.val, byte a.val] s =
      if a = 2 ∧ s.ports[q].role ≠ .engineering then
        reply q tag .notAllowed [byte k.val, latchByte s.keys[k]] s
      else if latchesActed q a s.keys[k].latches = s.keys[k].latches then
        reply q tag .already [byte k.val, latchByte s.keys[k]] s
      else
        let t := reform k { s.keys[k] with latches := latchesActed q a s.keys[k].latches } s
        reply q tag .ok [byte k.val, latchByte t.keys[k]] t := by
  have hk : fin? 4 (byte k.val).toNat = some k := fin_some k (byte_toNat (by omega))
  obtain ⟨action, haction, hall, hlatches⟩ := keyActionOf_byte a
  simp only [keyCommand, hk, haction, hall, hlatches]

/-- The latch byte, bit by bit (R200). -/
theorem latchByte_eq (x : Key) : latchByte x = BitVec.ofNat 8
    ((if x.latches[0] then 1 else 0) + (if x.latches[1] then 2 else 0) + (if x.latches[2] then 4 else 0) +
      (if x.triggerOut then 8 else 0) + (if x.active then 16 else 0)) := by
  have hbit (b : Bool) (n : Nat) : n * b.toNat = if b then n else 0 := by cases b <;> simp
  unfold latchByte byte
  rw [hbit, hbit, hbit, hbit, ← one_mul x.latches[0].toNat, hbit]

/-! ## KEY_TRIGGER (R95) -/

/-- A delivered trigger output of the cell that the key selects counts among its latches (R93, R95). -/
theorem wanted_triggered {x : Key} {c : CellIx} (out : Bool) (h : x.trigger = some c) :
    Key.wanted { x with triggerOut := out } = (x.latches[0] || x.latches[1] || x.latches[2] || out) := by
  simp [Key.wanted, h]

end Sys2Proof.Machine
end

section
/-! OBLIGATIONS. KEY and KEY_TRIGGER. -/

namespace Sys2Proof.Machine

/-- Settles O35: the key is stored re-formed, and each party is asked or released as its flag changes. -/
theorem keysAreReformedAndAsk : Obligations.KeysAreReformedAndAsk := by
  unfold Obligations.KeysAreReformedAndAsk
  refine ⟨fun s q tag k a hr => ⟨_, live_of_released _ hr, ?key⟩, latchByte_eq,
    fun s k c out hr => ⟨_, live_of_released _ hr, ?trigger⟩⟩
  case key =>
    rw [keyCommand_named]
    intro latches now
    have hlatches : latchesActed q a s.keys[k].latches = latches := rfl
    rw [hlatches]
    by_cases hrole : a = 2 ∧ s.ports[q].role ≠ .engineering
    · rw [if_pos hrole, if_pos hrole]
      exact ⟨rfl, replied_self ..⟩
    · rw [if_neg hrole, if_neg hrole]
      by_cases hstand : latches = s.keys[k].latches
      · rw [if_pos hstand, if_pos hstand]
        exact ⟨rfl, replied_self ..⟩
      · rw [if_neg hstand, if_neg hstand, reform_eq (now := now) rfl]
        refine ⟨rfl, storeKey_sameBut, storeKey_key, fun p => ?_, replied_of_ports rfl⟩
        rw [reply_foldBacks, storeKey_foldBacks]
        exact foldBackStored_reformed (new := { s.keys[k] with latches := latches, active := now }) hr rfl rfl
  case trigger =>
    unfold keyTrigger
    have hsame : (took (.keyTrigger k c out) s).keys = s.keys := rfl
    rw [hsame]
    by_cases hc : s.keys[k].trigger = some c
    · rw [if_pos hc, if_pos hc, reform_eq (wanted_triggered out hc)]
      intro now
      refine ⟨rfl, storeKey_sameBut, storeKey_key, fun p => ?_⟩
      rw [storeKey_foldBacks]
      exact foldBackStored_reformed (new := { s.keys[k] with triggerOut := out, active := now }) hr rfl rfl
    · rw [if_neg hc, if_neg hc]
      rfl

end Sys2Proof.Machine
end

section
/-! SUPPORT. SET KEY (R104, R105): the key it stores, setting by setting. -/

namespace Sys2Proof.Machine

variable {s : State} {q : PortIx} {tag : Byte} {k : KeyIx} {sh sl src pri duck talk d2 d1 d0 trig : Byte}

/-! ## The destination set sent (R198) -/

/-- Three bytes, most significant first, are the bits of one word. -/
theorem be24_append (a b c : Byte) : be24 a b c = (a ++ b ++ c : BitVec 24).toNat := by
  rw [BitVec.toNat_append, BitVec.toNat_append, ← Nat.shiftLeft_add_eq_or_of_lt b.isLt, ← Nat.shiftLeft_add_eq_or_of_lt c.isLt,
    Nat.shiftLeft_eq, Nat.shiftLeft_eq]
  rfl

/-- Party p is bit p of the destination set sent. -/
theorem destSent_bit (a b c : Byte) (p : PartyIx) : (maskOf 24 (be24 a b c))[p] = (a ++ b ++ c : BitVec 24).getLsbD p.val := by
  rw [be24_append, maskOf, ofFn_get]
  rfl

/-! ## The key stored -/

/-- The key SET KEY stores, item by item (R104, R105). -/
structure KeyStoredAs (s : State) (k : KeyIx) (sl src pri duck talk d2 d1 d0 trig : Byte) (new : Key) : Prop where
  latches : new.latches = s.keys[k].latches
  source : new.source.val = if sl.getLsbD 0 then src.toNat else s.keys[k].source.val
  priority : new.priority.val = if sl.getLsbD 1 then min 3 pri.toNat else s.keys[k].priority.val
  duck : new.duck = if sl.getLsbD 2 then if duck.toNat ≤ 192 then duck else 255 else s.keys[k].duck
  talk : new.talk = if sl.getLsbD 3 then if talk.toNat ≤ 192 then talk else 255 else s.keys[k].talk
  dest : ∀ p : PartyIx, new.dest[p] = if sl.getLsbD 4 then (d2 ++ d1 ++ d0 : BitVec 24).getLsbD p.val else s.keys[k].dest[p]
  trigger : ∀ c : CellIx, new.trigger = some c ↔ if sl.getLsbD 5 then trig.toNat = c.val else s.keys[k].trigger = some c
  triggerOut : new.triggerOut =
    if new.trigger = s.keys[k].trigger then s.keys[k].triggerOut
    else match new.trigger with | some c => s.cells[c].output | none => false
  active : new.active = (new.latches[0] || new.latches[1] || new.latches[2] || (new.trigger.isSome && new.triggerOut))

/-- A selected trigger code of 0 to 8 passes its check, and names the cell of its number or none (R104). -/
theorem checked_trigger (sel : Bool) (held : Option CellIx) (h : sel = true → trig.toNat ≤ 8) :
    ∃ t, checked sel (triggerOf trig) held = some t ∧
      ∀ c : CellIx, t = some c ↔ if sel then trig.toNat = c.val else held = some c := by
  obtain ⟨t, ht, hsent, hheld⟩ := checked_some sel (triggerOf trig) held fun hs => trigger_isSome (h hs)
  refine ⟨t, ht, fun c => ?_⟩
  cases sel with
  | false => rw [hheld rfl]; rfl
  | true => exact trigger_val (hsent rfl) c

theorem keyStored_as {source : StudioIx} {trigger : Option CellIx}
    (hsource : source.val = if sl.getLsbD 0 then src.toNat else s.keys[k].source.val)
    (htrigger : ∀ c : CellIx, trigger = some c ↔ if sl.getLsbD 5 then trig.toNat = c.val else s.keys[k].trigger = some c) :
    KeyStoredAs s k sl src pri duck talk d2 d1 d0 trig
      (keyStored s k (selected sh sl) source pri duck talk (maskOf 24 (be24 d2 d1 d0)) trigger) where
  latches := rfl
  source := hsource
  priority := by
    rw [← selected_lt sh sl 1 (by omega)]
    exact (congrArg Fin.val (store_value ..)).trans (apply_ite Fin.val ..)
  duck := by rw [← selected_lt sh sl 2 (by omega)]; exact store_gain ..
  talk := by rw [← selected_lt sh sl 3 (by omega)]; exact store_gain ..
  dest p := by
    rw [← selected_lt sh sl 4 (by omega), ← destSent_bit]
    exact apply_ite (fun m : Mask 24 => m[p]) ..
  trigger := htrigger
  triggerOut := rfl
  active := rfl

/-! ## The answers of SET KEY -/

/-- SET KEY is adjusted by a selected priority above 3 alone (R104). -/
theorem priority_adjusted (held : Fin 4) :
    (store (sl.getLsbD 1) (priorityStored pri) held).2 = true ↔ sl.getLsbD 1 = true ∧ 3 < pri.toNat := by
  rw [store_adjusted, priorityStored, decide_eq_true_iff]

/-- A payload of SET KEY that passes its checks. -/
theorem setKey_named (hsrc : sl.getLsbD 0 = true → src.toNat < 16) (htrig : sl.getLsbD 5 = true → trig.toNat ≤ 8) :
    ∃ new, KeyStoredAs s k sl src pri duck talk d2 d1 d0 trig new ∧
      setKey q tag [byte k.val, sh, sl, src, pri, duck, talk, d2, d1, d0, trig] s =
        if s.ports[q].role = .engineering then
          reply q tag (if sl.getLsbD 1 ∧ 3 < pri.toNat then .adjusted else .ok) (keyEntry (storeKey k new s) k) (storeKey k new s)
        else reply q tag .notAllowed (keyEntry s k) s := by
  have hk : fin? 4 (byte k.val).toNat = some k := fin_some k (byte_toNat (by omega))
  obtain ⟨source, hsource, hsourceVal⟩ := checked_fin (sl.getLsbD 0) src.toNat s.keys[k].source hsrc
  obtain ⟨trigger, htrigger, htriggerCell⟩ := checked_trigger (sl.getLsbD 5) s.keys[k].trigger htrig
  refine ⟨_, keyStored_as (sh := sh) hsourceVal htriggerCell, ?_⟩
  rw [← selected_lt sh sl 0 (by omega)] at hsource
  rw [← selected_lt sh sl 5 (by omega)] at htrigger
  simp only [setKey, hk, hsource, htrigger]
  rw [selected_lt sh sl 1 (by omega), okOr_eq _ _ (priority_adjusted _)]

end Sys2Proof.Machine
end

section
/-! OBLIGATIONS. SET KEY. -/

namespace Sys2Proof.Machine

/-- Settles O36: the key stored, setting by setting, and its arrival at each context. -/
theorem setKeyStoresAndActsAtItsParties : Obligations.SetKeyStoresAndActsAtItsParties := by
  unfold Obligations.SetKeyStoresAndActsAtItsParties
  intro s q tag k sh sl src pri duck talk d2 d1 d0 trig hr hsrc htrig
  refine ⟨_, live_of_released _ hr, ?_⟩
  obtain ⟨new, hnew, hset⟩ := setKey_named (s := s) (q := q) (tag := tag) (k := k) (sh := sh) (pri := pri) (duck := duck)
    (talk := talk) (d2 := d2) (d1 := d1) (d0 := d0) hsrc htrig
  rw [hset]
  by_cases hrole : s.ports[q].role = .engineering
  · rw [if_pos hrole, if_pos hrole]
    simp only [reply_keys, reply_foldBacks, storeKey_key, storeKey_foldBacks]
    exact ⟨rfl, storeKey_sameBut, hnew.latches, hnew.source, hnew.priority, hnew.duck, hnew.talk, hnew.dest, hnew.trigger,
      hnew.triggerOut, hnew.active, fun p => foldBackStored_arrivals hr, replied_of_ports rfl⟩
  · rw [if_neg hrole, if_neg hrole]
    exact ⟨rfl, replied_self ..⟩

end Sys2Proof.Machine
end

section
/-! SUPPORT. One delay (R112 to R126): the kinds of its frames, what a frame makes of it, and each operation of chapter 6 against the
conditions on it. -/

namespace Sys2Proof.Machine

variable {s : State} {m : MemSize} {k : Programme} {d : Delay} {i : FrameIx} {x : Sample}

/-! ## The kinds of frames (R120, R121) -/

theorem rebuildFrame_iff : rebuildFrame d i = true ↔ d.quiet = true ∧ (i.val + 1) % ratioOf d.ratioInUse = 0 := by simp [rebuildFrame]

theorem inserts_iff :
    inserts d i = true ↔
      d.state = .building ∧ (d.quiet = true ∧ (i.val + 1) % ratioOf d.ratioInUse = 0) ∧ d.length < d.targetInUse := by
  simp [inserts, rebuildFrame_iff, and_assoc]

theorem skips_iff :
    skips d i = true ↔
      d.state = .shrinking ∧ (d.quiet = true ∧ (i.val + 1) % ratioOf d.ratioInUse = 0) ∧ d.targetInUse < d.length := by
  simp [skips, rebuildFrame_iff, and_assoc]

/-- A skip frame is no insert frame: the states differ. -/
theorem skips_not_inserts (h : skips d i = true) : inserts d i = false := by
  obtain ⟨hstate, -⟩ := skips_iff.1 h
  simp [inserts, hstate]

/-- A skip frame has a sample to pass over. -/
theorem skips_length (h : skips d i = true) : 0 < d.length := by
  obtain ⟨-, -, hlength⟩ := skips_iff.1 h
  omega

theorem readCount_skip (h : skips d i = true) : readCount d i = d.rd + 1 := if_pos h

theorem readCount_noSkip (h : skips d i = false) : readCount d i = d.rd := if_neg (by simp [h])

/-! ## The sample read (R115, R120, R121) -/

theorem sampleRead_insert (h : inserts s.delays[k] i = true) : sampleRead m s k x i = s.delays[k].last := if_pos h

/-- A read at the count just written gives the frame's own input. -/
theorem sampleRead_own (hi : inserts s.delays[k] i = false) (hw : readCount s.delays[k] i = s.delays[k].w) :
    sampleRead m s k x i = x := by
  rw [sampleRead, if_neg (Bool.eq_false_iff.1 hi), if_pos hw]

/-- Another read gives what is listed at its word after the write. -/
theorem sampleRead_listed (hi : inserts s.delays[k] i = false) (hw : readCount s.delays[k] i ≠ s.delays[k].w) {v : Sample}
    (hv : sramRead (sramAfter m s k x) (wordAddr m k (readCount s.delays[k] i)) = some v) : sampleRead m s k x i = v := by
  rw [sampleRead, if_neg (Bool.eq_false_iff.1 hi), if_neg hw, sramWord, hv, Option.getD_some]

/-- A read at the word just written gives the frame's own input too. -/
theorem sampleRead_sameWord (hi : inserts s.delays[k] i = false)
    (hw : wordAddr m k (readCount s.delays[k] i) = wordAddr m k s.delays[k].w) : sampleRead m s k x i = x := by
  by_cases h : readCount s.delays[k] i = s.delays[k].w
  · exact sampleRead_own hi h
  · refine sampleRead_listed hi h ?_
    rw [hw]
    exact sramRead_write_same _ _ _

/-- A read at another word gives what was listed there before the frame. -/
theorem sampleRead_otherWord (hi : inserts s.delays[k] i = false)
    (hw : wordAddr m k (readCount s.delays[k] i) ≠ wordAddr m k s.delays[k].w) {v : Sample}
    (hv : sramRead s.sram (wordAddr m k (readCount s.delays[k] i)) = some v) : sampleRead m s k x i = v :=
  sampleRead_listed hi (fun e => hw (congrArg _ e)) ((sramRead_write_other _ _ _ _ hw).trans hv)

/-! ## The delay after a frame (R115) -/

/-- A delay that wrote in a frame, with the read count and the sample that its read left (R115, R119). -/
def Delay.framed (d : Delay) (rd : Count) (y : Sample) : Delay :=
  { d with w := d.w + 1, rd := rd, last := y, peak := max d.peak (magnitude y.toInt) }

theorem delayAfter_insert (h : inserts s.delays[k] i = true) :
    delayAfter m s k x i = s.delays[k].framed s.delays[k].rd s.delays[k].last := by
  simp only [delayAfter, sampleRead, h, if_true, Delay.framed]

theorem delayAfter_skip (h : skips s.delays[k] i = true) :
    delayAfter m s k x i = s.delays[k].framed (s.delays[k].rd + 2) (sampleRead m s k x i) := by
  simp only [delayAfter, skips_not_inserts h, h, if_true, Bool.false_eq_true, if_false, Delay.framed]

theorem delayAfter_normal (hi : inserts s.delays[k] i = false) (hs : skips s.delays[k] i = false) :
    delayAfter m s k x i = s.delays[k].framed (s.delays[k].rd + 1) (sampleRead m s k x i) := by
  simp only [delayAfter, hi, hs, Bool.false_eq_true, if_false, Delay.framed]

/-- The read of a frame is an insert, a skip or a normal one. -/
theorem frame_kind (d : Delay) (i : FrameIx) :
    inserts d i = true ∨ skips d i = true ∨ (inserts d i = false ∧ skips d i = false) := by
  cases inserts d i <;> cases skips d i <;> simp

theorem length_framed_insert (h : DelayOk m d) (y : Sample) : (d.framed d.rd y).length = d.length + 1 :=
  length_insert d (h.length.trans_lt (lMax_lt m))

theorem length_framed_skip (h : 0 < d.length) (y : Sample) : (d.framed (d.rd + 2) y).length + 1 = d.length := by
  have hskip : (d.framed (d.rd + 2) y).length = d.length - 1 := length_skip d h
  omega

theorem length_framed_normal (d : Delay) (y : Sample) : (d.framed (d.rd + 1) y).length = d.length :=
  congrArg BitVec.toNat (length_normal d.w d.rd)

/-! ## Each operation against the conditions (R112 to R126) -/

/-- A frame keeps the conditions where the length it leaves is within L_max and, in a state without rebuild, the one before. -/
theorem DelayOk.framed (h : DelayOk m d) {rd : Count} {y : Sample} (hmax : (d.framed rd y).length ≤ m.lMax)
    (hstands : d.state = .bypass ∨ d.state = .dumpIn → (d.framed rd y).length = d.length) : DelayOk m (d.framed rd y) :=
  { h with
    length := hmax
    bypass := fun hb => ⟨(hstands (.inl hb)).trans (h.bypass hb).1, (h.bypass hb).2⟩
    peak := max_le h.peak (magnitude_le _)
    waits := fun hp => ⟨(h.waits hp).1, (h.waits hp).2.trans (hstands (.inr (h.waits hp).1)).ge⟩ }

/-- A frame of a delay keeps its conditions: an insert frame stays below the target in use (R116, R120). -/
theorem DelayOk.after {n : MemSize} (h : DelayOk n s.delays[k]) : DelayOk n (delayAfter m s k x i) := by
  rcases frame_kind s.delays[k] i with hk | hk | ⟨hi, hk⟩
  · obtain ⟨hstate, -, hlength⟩ := inserts_iff.1 hk
    rw [delayAfter_insert hk]
    refine h.framed ?_ (by rw [hstate]; nofun)
    rw [length_framed_insert h]
    exact (Nat.succ_le_of_lt hlength).trans (h.inUse hstate)
  · obtain ⟨hstate, -, -⟩ := skips_iff.1 hk
    have hlength := length_framed_skip (skips_length hk) (sampleRead m s k x i)
    have hmax := h.length
    rw [delayAfter_skip hk]
    exact h.framed (by omega) (by rw [hstate]; nofun)
  · rw [delayAfter_normal hi hk]
    exact h.framed ((length_framed_normal _ _).trans_le h.length) fun _ => length_framed_normal _ _

/-- A dump request leaves a delay, adds one dump up to 255 to a delay that is on, or marks one pending in DUMP_IN (R122). -/
theorem dumpRequest_cases (d : Delay) :
    (dumpRequest d).1 = d ∨
      (d.state ≠ .bypass ∧ d.state ≠ .dumpIn ∧ d.dumps < 255 ∧ (dumpRequest d).1 = { d with dumps := d.dumps + 1 }) ∨
      (d.state = .dumpIn ∧ 32 ≤ d.length ∧ (dumpRequest d).1 = { d with dumpPending := true }) := by
  unfold dumpRequest
  split
  case h_1 => exact .inl rfl
  case h_5 hs =>
    split
    · next hd => exact .inr (.inl ⟨by simp [hs], by simp [hs], hd, rfl⟩)
    · exact .inl rfl
  case h_6 hs =>
    split
    · exact .inl rfl
    · split
      · exact .inl rfl
      · next hl => exact .inr (.inr ⟨hs, Nat.not_lt.1 hl, rfl⟩)
  all_goals
    next hs =>
    split
    · next hd =>
      split
      · exact .inl rfl
      · exact .inr (.inl ⟨by simp [hs], by simp [hs], by omega, by rw [hd]⟩)
    · split
      · next hd => exact .inr (.inl ⟨by simp [hs], by simp [hs], hd, rfl⟩)
      · exact .inl rfl

theorem DelayOk.dumpRequest (h : DelayOk m d) : DelayOk m (dumpRequest d).1 := by
  rcases dumpRequest_cases d with he | ⟨hon, hin, hdumps, he⟩ | ⟨hstate, hlength, he⟩
  · rw [he]; exact h
  · rw [he]
    exact { h with
      bypass := fun e => absurd e hon, dumps := hdumps, out := fun _ => Nat.succ_pos _, back := fun e => absurd e hin }
  · rw [he]
    exact { h with waits := fun _ => ⟨hstate, hlength⟩ }

/-- A delivered output of the cell that a delay selects (R126). -/
theorem DelayOk.triggered (h : DelayOk m d) {c : CellIx} (hc : d.trigger = some c) (out : Bool) :
    DelayOk m { d with triggerOut := out } :=
  { h with trigger := fun hn => absurd (hc.symm.trans hn) nofun }

/-- A target brought down to the maximum of a new mode, in BYPASS (R113). -/
theorem DelayOk.lowered (h : DelayOk m d) (hb : d.state = .bypass) (n : MemSize) : DelayOk n (lowerTarget n d) where
  length := ((h.bypass hb).1.trans_le (Nat.zero_le _) : d.length ≤ n.lMax)
  bypass := h.bypass
  target := by
    have hmax := target_max n
    have hdvd := h.target.2
    unfold lowerTarget
    dsimp only
    omega
  inUse e := absurd (hb.symm.trans e) nofun
  segment := h.segment
  codes := h.codes
  peak := h.peak
  dumps := h.dumps
  out := h.out
  back := h.back
  waits := h.waits
  trigger := h.trigger

/-- The settings that SET DELAY stores are in range, and a delay left without a trigger cell holds the output 0 (R118, R131). -/
theorem DelayOk.stored (h : DelayOk s.memSize s.delays[k]) (sel : Nat → Bool) (target segment : Nat) (ratio qe ql : Byte)
    (mode : HoldFeed) (trigger : Option CellIx) :
    DelayOk s.memSize (delayStored s k sel target segment ratio qe ql mode trigger).1 :=
  { h with
    target := by
      have hmax := target_max s.memSize
      have htarget := h.target
      dsimp only [delayStored, store]
      split
      · dsimp only; omega
      · exact htarget
    segment := by
      have hsegment := h.segment
      dsimp only [delayStored, store, clamp]
      split <;> dsimp only <;> omega
    codes := by
      have hcodes := h.codes
      dsimp only [delayStored, store, clamp]
      cases sel 3 <;> cases sel 4 <;> simp only [if_true, Bool.false_eq_true, if_false] <;> split <;> omega
    trigger := by
      rintro ⟨⟩
      exact triggerOutAfter_none h.trigger }

/-! ## The period-start event against the conditions (R117, R119, R123 to R125) -/

/-- A delay with its quiet flag set and its peak begun anew (R119). -/
def Delay.judged (d : Delay) : Delay := { d with quiet := quietAfter d, peak := 0 }

/-- A delay at the jump out of DUMP_OUT (R124). -/
def Delay.jumped (d : Delay) : Delay :=
  { d with rd := d.rd + BitVec.ofNat 32 (jumpOf d), lastJump := jumpOf d, dumps := 0, state := .dumpIn }

/-- A DUMP_OUT period ends with the jump (R124). -/
theorem periodDelay_out (h : d.state = .dumpOut) : periodDelay d = d.judged.jumped := by
  unfold periodDelay
  split
  · rfl
  all_goals next hs => exact absurd (h.symm.trans hs) nofun

/-- A DUMP_IN period ends with the pending dump, or with the state from D and T (R125). -/
theorem periodDelay_in (h : d.state = .dumpIn) :
    periodDelay d =
      if d.dumpPending then { d.judged with dumpPending := false, dumps := 1, state := .dumpOut } else takeState d.judged := by
  unfold periodDelay
  split
  case h_2 => rfl
  all_goals next hs => exact absurd (h.symm.trans hs) nofun

/-- Another period ends with the accepted dump, or with the state from D and T (R117, R123). -/
theorem periodDelay_run (hout : d.state ≠ .dumpOut) (hin : d.state ≠ .dumpIn) :
    periodDelay d = if 0 < d.dumps then { d.judged with state := .dumpOut } else takeState d.judged := by
  unfold periodDelay
  split
  · next hs => exact absurd hs hout
  · next hs => exact absurd hs hin
  all_goals rfl

/-- The four ways of a period-start event: the jump, a pending dump begun, an accepted one begun, or the state taken from D and T. -/
theorem periodDelay_cases (d : Delay) :
    (d.state = .dumpOut ∧ periodDelay d = d.judged.jumped) ∨
    (d.state = .dumpIn ∧ periodDelay d = { d.judged with dumpPending := false, dumps := 1, state := .dumpOut }) ∨
    (d.state ≠ .dumpIn ∧ 0 < d.dumps ∧ periodDelay d = { d.judged with state := .dumpOut }) ∨
    ((d.state = .dumpIn → d.dumpPending = false) ∧ (d.state ≠ .dumpIn → d.dumps = 0) ∧ periodDelay d = takeState d.judged) := by
  by_cases hout : d.state = .dumpOut
  · exact .inl ⟨hout, periodDelay_out hout⟩
  by_cases hin : d.state = .dumpIn
  · rw [periodDelay_in hin]
    split
    · exact .inr (.inl ⟨hin, rfl⟩)
    · next hp => exact .inr (.inr (.inr ⟨fun _ => Bool.eq_false_iff.2 hp, fun hn => absurd hin hn, rfl⟩))
  · rw [periodDelay_run hout hin]
    split
    · next hd => exact .inr (.inr (.inl ⟨hin, hd, rfl⟩))
    · next hd => exact .inr (.inr (.inr ⟨fun hs => absurd hs hin, fun _ => Nat.eq_zero_of_not_pos hd, rfl⟩))

/-- The state taken from D and T is none of a dump, and BYPASS only from BYPASS or at D = 0 (R117). -/
theorem stateFrom_cases (d : Delay) :
    (stateFrom d = .bypass ∧ (d.state = .bypass ∨ d.length = 0)) ∨ stateFrom d = .building ∨ stateFrom d = .atTarget ∨
      stateFrom d = .shrinking := by
  unfold stateFrom
  repeat' split
  all_goals simp_all

theorem DelayOk.judged (h : DelayOk m d) : DelayOk m d.judged := { h with peak := Nat.zero_le _ }

/-- A jump goes no further than the length (R124). -/
theorem DelayOk.jumped (h : DelayOk m d) (hstate : d.state = .dumpOut) : DelayOk m d.jumped :=
  { h with
    length := by
      have hlength : d.jumped.length = d.length - jumpOf d := length_jump d _ (jump_le d)
      exact hlength ▸ (Nat.sub_le _ _).trans h.length
    bypass := nofun, inUse := nofun, dumps := Nat.zero_le _, out := nofun, back := fun _ => rfl
    waits := fun hp => absurd (hstate.symm.trans (h.waits hp).1) nofun }

/-- A dump begun, none pending (R123, R125). -/
theorem DelayOk.dumped (h : DelayOk m d) {n : Nat} (h1 : 1 ≤ n) (h2 : n ≤ 255) :
    DelayOk m { d with dumpPending := false, dumps := n, state := .dumpOut } :=
  { h with bypass := nofun, inUse := nofun, dumps := h2, out := fun _ => h1, back := nofun, waits := nofun }

/-- The state, the target and the ratio taken by a delay without dumps (R117, R118). -/
theorem DelayOk.taken (h : DelayOk m d) (hdumps : d.dumps = 0) (hp : d.dumpPending = false) : DelayOk m (takeState d) := by
  have hbypass : stateFrom d = .bypass → d.length = 0 := fun e => by
    rcases stateFrom_cases d with ⟨-, hb | hl⟩ | hs | hs | hs
    · exact (h.bypass hb).1
    · exact hl
    all_goals exact absurd (e.symm.trans hs) nofun
  have hout : stateFrom d ≠ .dumpOut := by rcases stateFrom_cases d with ⟨hs, -⟩ | hs | hs | hs <;> simp [hs]
  exact { h with
    bypass := fun e => ⟨hbypass e, hdumps⟩, inUse := fun _ => h.target.1, out := fun e => absurd e hout
    back := fun _ => hdumps, waits := fun e => absurd (hp.symm.trans e) nofun }

/-- The period-start event keeps the conditions of its delay. -/
theorem DelayOk.period (h : DelayOk m d) : DelayOk m (periodDelay d) := by
  have hpending (hn : d.state ≠ .dumpIn) : d.dumpPending = false := by
    by_contra hp
    exact hn (h.waits (by simpa using hp)).1
  rcases periodDelay_cases d with ⟨hstate, he⟩ | ⟨-, he⟩ | ⟨hstate, hdumps, he⟩ | ⟨hp, hdumps, he⟩
  · rw [he]
    exact h.judged.jumped hstate
  · rw [he]
    exact h.judged.dumped le_rfl (by omega)
  · have hd : { d.judged with state := .dumpOut } =
        { d.judged with dumpPending := false, dumps := d.dumps, state := .dumpOut } := by
      rw [← hpending hstate]; rfl
    rw [he, hd]
    exact h.judged.dumped hdumps h.dumps
  · rw [he]
    by_cases hstate : d.state = .dumpIn
    · exact h.judged.taken (h.back hstate) (hp hstate)
    · exact h.judged.taken (hdumps hstate) (hpending hstate)

end Sys2Proof.Machine
end

section
/-! SUPPORT. The words of the delay memory that a delay wrote itself (R112): which they are after a frame, and that the counts a delay
has still to read are among them. -/

namespace Sys2Proof.Machine

variable {s : State} {m : MemSize} {j k : Programme} {c : Count} {i : FrameIx} {x : Sample}

/-- The word of a count was written since RESET, last by the delay itself. -/
def OwnWord (sram : List (Nat × Sample)) (writers : List (Nat × Programme)) (m : MemSize) (k : Programme) (c : Count) : Prop :=
  (sramRead sram (wordAddr m k c)).isSome = true ∧ sramRead writers (wordAddr m k c) = some k

/-- The two delays have no word in common (R112). -/
theorem wordAddr_ne (h : j ≠ k) (a b : Count) : wordAddr m j a ≠ wordAddr m k b := by
  have ha := Nat.mod_lt a.toNat (capacity_pos m)
  have hb := Nat.mod_lt b.toNat (capacity_pos m)
  unfold wordAddr
  have hjk : j.val ≠ k.val := Fin.val_ne_of_ne h
  have hcases : (j.val = 0 ∧ k.val = 1) ∨ (j.val = 1 ∧ k.val = 0) := by omega
  rcases hcases with ⟨hj, hk⟩ | ⟨hj, hk⟩ <;> rw [hj, hk] <;> omega

/-- The word written in a frame is the delay's own. -/
theorem ownWord_written : OwnWord (sramAfter m s k x) (writersAfter m s k) m k s.delays[k].w := by
  unfold OwnWord sramAfter writersAfter
  rw [sramRead_write_same, sramRead_write_same]
  exact ⟨rfl, rfl⟩

/-- A frame leaves every delay the words that were its own. -/
theorem OwnWord.after (h : OwnWord s.sram s.writers m j c) : OwnWord (sramAfter m s k x) (writersAfter m s k) m j c := by
  refine ⟨sramRead_write_isSome h.1, ?_⟩
  unfold writersAfter
  by_cases hjk : j = k
  · subst hjk
    by_cases ha : wordAddr m j c = wordAddr m j s.delays[j].w
    · rw [ha, sramRead_write_same]
    · rw [sramRead_write_other _ _ _ _ ha]; exact h.2
  · rw [sramRead_write_other _ _ _ _ (wordAddr_ne hjk _ _)]; exact h.2

/-- What a delay has still to read under a mode is its own. -/
def HeldAt (m : MemSize) (s : State) (k : Programme) : Prop :=
  ∀ n < s.delays[k].length, OwnWord s.sram s.writers m k (s.delays[k].rd + BitVec.ofNat 32 n)

theorem heldOk_iff : HeldOk s ↔ ∀ k, HeldAt s.memInUse s k := Iff.rfl

/-- The write count is the length away from the read count (R114). -/
theorem rd_add_length (d : Delay) : d.rd + BitVec.ofNat 32 d.length = d.w := by
  unfold Delay.length
  rw [BitVec.ofNat_toNat, BitVec.setWidth_eq]
  bv_omega

/-- After the write of a frame the counts from Rd up to the one just written are the delay's own. -/
theorem HeldAt.upTo (h : HeldAt m s k) {n : Nat} (hn : n ≤ s.delays[k].length) :
    OwnWord (sramAfter m s k x) (writersAfter m s k) m k (s.delays[k].rd + BitVec.ofNat 32 n) := by
  rcases hn.lt_or_eq with hlt | rfl
  · exact (h n hlt).after
  · rw [rd_add_length]; exact ownWord_written

theorem HeldAt.atRd (h : HeldAt m s k) : OwnWord (sramAfter m s k x) (writersAfter m s k) m k s.delays[k].rd := by
  have hrd := h.upTo (x := x) (Nat.zero_le _)
  rw [BitVec.add_zero] at hrd
  exact hrd

/-- The count that a frame reads, but an insert frame, is one of those. -/
theorem HeldAt.readOwn (h : HeldAt m s k) :
    OwnWord (sramAfter m s k x) (writersAfter m s k) m k (readCount s.delays[k] i) := by
  cases hk : skips s.delays[k] i with
  | true =>
    rw [readCount_skip hk]
    exact h.upTo (n := 1) (skips_length hk)
  | false =>
    rw [readCount_noSkip hk]
    exact h.atRd

/-- The counts left to read after a frame are those from Rd, Rd + 1 or Rd + 2 up to the one just written (R115). -/
theorem HeldAt.frame (h : HeldAt m s k) (hd : DelayOk s.memSize s.delays[k]) (n : Nat)
    (hn : n < (delayAfter m s k x i).length) :
    OwnWord (sramAfter m s k x) (writersAfter m s k) m k ((delayAfter m s k x i).rd + BitVec.ofNat 32 n) := by
  have hshift (a : Nat) : s.delays[k].rd + BitVec.ofNat 32 a + BitVec.ofNat 32 n = s.delays[k].rd + BitVec.ofNat 32 (a + n) := by
    rw [BitVec.add_assoc, ← BitVec.ofNat_add]
  rcases frame_kind s.delays[k] i with hk | hk | ⟨hi, hk⟩
  · rw [delayAfter_insert hk] at hn ⊢
    rw [length_framed_insert hd] at hn
    exact h.upTo (Nat.le_of_lt_succ hn)
  · have hlength := length_framed_skip (skips_length hk) (sampleRead m s k x i)
    rw [delayAfter_skip hk] at hn ⊢
    have hcount := h.upTo (x := x) (n := 2 + n) (by omega)
    rw [← hshift] at hcount
    exact hcount
  · rw [delayAfter_normal hi hk] at hn ⊢
    rw [length_framed_normal] at hn
    have hcount := h.upTo (x := x) (n := 1 + n) (by omega)
    rw [← hshift] at hcount
    exact hcount

end Sys2Proof.Machine
end

section
/-! SUPPORT. The conditions on the delays and their memory as one, what each command that touches them owes to it, and what a frame reads
under it. -/

namespace Sys2Proof.Machine

variable {s t : State} {m : MemSize} {k : Programme} {i : FrameIx} {x : Sample}

/-- The delays in range, the SRAM in its form, the mode in use, and the words still to read. -/
structure AirOk (s : State) : Prop where
  delays : DelaysOk s
  memory : MemoryOk s
  mode : ModeOk s
  held : HeldOk s

/-! ## Commands beside the delays -/

/-- A state with the same delays and memory meets the conditions too; each operation beside them has its law in Laws/State. -/
theorem AirOk.beside (hs : AirOk s) (hd : t.delays = s.delays := by simp) (hm : t.memSize = s.memSize := by simp)
    (hu : t.memInUse = s.memInUse := by simp) (hr : t.sram = s.sram := by simp) (hw : t.writers = s.writers := by simp) :
    AirOk t := by
  obtain ⟨delays, memory, mode, held⟩ := hs
  unfold DelaysOk at delays
  unfold MemoryOk at memory
  unfold ModeOk at mode
  unfold HeldOk at held
  rw [← hd, ← hm] at delays
  rw [← hr, ← hw] at memory
  rw [← hd, ← hm, ← hu] at mode
  rw [← hd, ← hu, ← hr, ← hw] at held
  exact ⟨delays, memory, mode, held⟩

/-- A command that changes nothing of the delays, by the law of what it changes in Laws/Commands. -/
theorem AirOk.changes (hs : AirOk s) {u : State} (h : t = u) (hd : u.delays = s.delays := by rfl)
    (hm : u.memSize = s.memSize := by rfl) (hu : u.memInUse = s.memInUse := by rfl) (hr : u.sram = s.sram := by rfl)
    (hw : u.writers = s.writers := by rfl) : AirOk t := h ▸ hs.beside hd hm hu hr hw

theorem AirOk.reply (hs : AirOk s) {q : PortIx} {tag : Byte} {r : Result} {body : List Byte} : AirOk (reply q tag r body s) :=
  hs.beside

/-- A live command has its effect, or none while RESET is asserted. -/
theorem AirOk.of_live {e : State} (hs : AirOk s) (h : live s e = .next t) (he : AirOk e) : AirOk t := by
  rw [live_next] at h
  split at h
  · exact h ▸ hs
  · exact h ▸ he

/-- A row that is a case of another event keeps what that event keeps. -/
theorem AirOk.of_case (hs : AirOk s) (b : Prop) [Decidable b] (ht : AirOk t) : AirOk (if b then t else s) := by
  split <;> assumption

theorem reset_airOk : AirOk State.reset := ⟨reset_delaysOk, reset_memoryOk, .inl rfl, reset_heldOk⟩

/-! ## Settings and dump requests (R122, R126, R131) -/

/-- What one delay has still to read stands while its counts stand. -/
theorem HeldAt.counts (h : HeldAt m s k) (hw : t.delays[k].w = s.delays[k].w) (hrd : t.delays[k].rd = s.delays[k].rd)
    (hr : t.sram = s.sram) (ho : t.writers = s.writers) : HeldAt m t k := by
  have hlength : t.delays[k].length = s.delays[k].length := by unfold Delay.length; rw [hw, hrd]
  unfold HeldAt
  rw [hlength, hrd, hr, ho]
  exact h

/-- A delay stored with its counts and its state. -/
theorem AirOk.withDelay (hs : AirOk s) {d : Delay} (hd : DelayOk s.memSize d) (hw : d.w = s.delays[k].w)
    (hrd : d.rd = s.delays[k].rd) (hstate : d.state = s.delays[k].state) : AirOk { s with delays := s.delays.set k d } where
  delays := forall_set hs.delays hd
  memory := hs.memory
  mode := hs.mode.imp_right fun hb => forall_set (P := fun e : Delay => e.state = .bypass) hb (hstate.trans (hb k))
  held := heldOk_iff.2 fun j => by
    have hcounts : (s.delays.set k d)[j].w = s.delays[j].w ∧ (s.delays.set k d)[j].rd = s.delays[j].rd := by
      rw [set_get]
      split
      · next hj => subst hj; exact ⟨hw, hrd⟩
      · exact ⟨rfl, rfl⟩
    exact (heldOk_iff.1 hs.held j).counts hcounts.1 hcounts.2 rfl rfl

theorem AirOk.setDelay (hs : AirOk s) (q : PortIx) (tag : Byte) (pl : List Byte) : AirOk (setDelay q tag pl s) := by
  unfold Machine.setDelay
  split
  · split
    · exact hs.reply
    · next k _ =>
      split
      · split
        · exact (hs.withDelay (k := k) ((hs.delays k).stored ..) rfl rfl rfl).reply
        · exact hs.reply
      · exact hs.reply
  · exact hs.reply

theorem dumpRequest_counts (d : Delay) : (dumpRequest d).1.w = d.w ∧ (dumpRequest d).1.rd = d.rd := by
  rw [dumpRequest_rest]; exact ⟨rfl, rfl⟩

theorem AirOk.dump (hs : AirOk s) (q : PortIx) (tag : Byte) (pl : List Byte) : AirOk (dump q tag pl s) := by
  unfold Machine.dump
  split
  · split
    · exact hs.reply
    · next k _ =>
      obtain ⟨hw, hrd⟩ := dumpRequest_counts s.delays[k]
      split
      · exact (hs.withDelay (hs.delays k).dumpRequest hw hrd (dumpRequest_state _)).reply
      · exact hs.reply
  · exact hs.reply

theorem AirOk.delayTrigger (hs : AirOk s) (k : Programme) (c : CellIx) (out : Bool) : AirOk (delayTrigger k c out s) := by
  unfold Machine.delayTrigger
  dsimp only
  split
  · next hc =>
    have hd := (hs.delays k).triggered hc out
    obtain ⟨hw, hrd⟩ := dumpRequest_counts { s.delays[k] with triggerOut := out }
    split
    · exact hs.withDelay hd.dumpRequest hw hrd (dumpRequest_state _)
    · exact hs.withDelay hd rfl rfl rfl
  · exact hs

/-! ## The memory size mode (R113) -/

/-- A delay in BYPASS has nothing to read, under any mode. -/
theorem heldAt_bypass {n : MemSize} (hd : DelayOk n s.delays[k]) (hb : s.delays[k].state = .bypass) : HeldAt m s k := by
  intro n hn
  rw [(hd.bypass hb).1] at hn
  exact absurd hn (Nat.not_lt_zero n)

/-- The words still to read are the same under the mode in use and under the one stored. -/
theorem heldAt_either (hd : DelaysOk s) (hmode : ModeOk s) (hh : HeldOk s) (hm : m = s.memInUse ∨ m = s.memSize) :
    HeldAt m s k := by
  rcases hmode with he | hb
  · rw [he, or_self] at hm
    rw [hm, ← he]
    exact hh k
  · exact heldAt_bypass (hd k) (hb k)

/-- A mode stored with both delays in BYPASS. -/
theorem AirOk.storeMode (hs : AirOk s) (hb : ∀ k : Programme, s.delays[k].state = .bypass) (m : MemSize) :
    AirOk { s with memSize := m, delays := Vector.ofFn fun k : Programme => lowerTarget m s.delays[k] } where
  delays := forall_ofFn fun k => (hs.delays k).lowered (hb k) m
  memory := hs.memory
  mode := .inr (forall_ofFn (P := fun e : Delay => e.state = .bypass) hb)
  held := heldOk_iff.2 fun k => by
    have hk : (Vector.ofFn fun k : Programme => lowerTarget m s.delays[k])[k] = lowerTarget m s.delays[k] := ofFn_get _ _
    exact (heldOk_iff.1 hs.held k).counts ((congrArg Delay.w hk).trans rfl) ((congrArg Delay.rd hk).trans rfl) rfl rfl

theorem AirOk.setMemorySize (hs : AirOk s) (q : PortIx) (tag : Byte) (pl : List Byte) : AirOk (setMemorySize q tag pl s) := by
  unfold Machine.setMemorySize
  split
  · split
    · exact hs.reply
    · split
      · exact hs.reply
      · split
        · exact hs.reply
        · next m _ _ hon =>
          have hb : ∀ k : Programme, s.delays[k].state = .bypass := by
            simp only [Bool.or_eq_true, delay_on, not_or, not_not] at hon
            exact Fin.forall_fin_two.2 hon
          exact (hs.storeMode hb m).reply
  · exact hs.reply

/-- The mode stored taken into use at a frame or a period start (R113). -/
theorem AirOk.takeMode (hs : AirOk s) : AirOk { s with memInUse := s.memSize } :=
  ⟨hs.delays, hs.memory, .inl rfl, heldOk_iff.2 fun _ => heldAt_either (s := s) hs.delays hs.mode hs.held (.inr rfl)⟩

theorem AirOk.frame (hs : AirOk s) (x : FrameIn) : AirOk (frameComputation x s) := hs.takeMode.beside

/-! ## The period-start event (R117, R124) -/

/-- A period-start event moves the read count by a jump within the length alone. -/
theorem periodDelay_counts (d : Delay) :
    (periodDelay d).w = d.w ∧ ∃ jump ≤ d.length, (periodDelay d).rd = d.rd + BitVec.ofNat 32 jump := by
  have hzero : d.rd = d.rd + BitVec.ofNat 32 0 := (BitVec.add_zero _).symm
  rcases periodDelay_cases d with ⟨-, he⟩ | ⟨-, he⟩ | ⟨-, -, he⟩ | ⟨-, -, he⟩ <;> rw [he]
  · exact ⟨rfl, jumpOf d, jump_le d, rfl⟩
  all_goals exact ⟨rfl, 0, Nat.zero_le _, hzero⟩

/-- The counts left to read after a jump within the length are among those before. -/
theorem HeldAt.jump (h : HeldAt m s k) {d : Delay} {jump : Nat} (hw : d.w = s.delays[k].w) (hj : jump ≤ s.delays[k].length)
    (hrd : d.rd = s.delays[k].rd + BitVec.ofNat 32 jump) (n : Nat) (hn : n < d.length) :
    OwnWord s.sram s.writers m k (d.rd + BitVec.ofNat 32 n) := by
  have hlength : d.length = s.delays[k].length - jump := by
    unfold Delay.length
    rw [hw, hrd]
    exact length_jump _ _ hj
  rw [hrd, BitVec.add_assoc, ← BitVec.ofNat_add]
  exact h _ (by omega)

theorem AirOk.periodStart (hs : AirOk s) (k : Programme) :
    AirOk { s with delays := s.delays.set k (periodDelay s.delays[k]), memInUse := s.memSize } where
  delays := forall_set hs.delays (hs.delays k).period
  memory := hs.memory
  mode := .inl rfl
  held := heldOk_iff.2 fun j => by
    have hj : HeldAt s.memSize s j := heldAt_either hs.delays hs.mode hs.held (.inr rfl)
    intro n hn
    dsimp only at hn ⊢
    rw [set_get] at hn ⊢
    split at hn
    · next e =>
      subst e
      obtain ⟨hw, jump, hjump, hrd⟩ := periodDelay_counts s.delays[j]
      rw [if_pos rfl]
      exact hj.jump hw hjump hrd n hn
    · next e =>
      rw [if_neg e]
      exact hj n hn

theorem delayPeriod_delays (k : Programme) (s : State) :
    (delayPeriod k s).delays = s.delays.set k (periodDelay s.delays[k]) := by
  unfold delayPeriod
  rw [raiseIf_delays, testGuards_delays]

theorem AirOk.delayPeriod (hs : AirOk s) (k : Programme) : AirOk (delayPeriod k s) :=
  (hs.periodStart k).beside (delayPeriod_delays k s)

/-! ## The frame of a delay (R112, R115) -/

/-- A write keeps the form of the SRAM within the words of the port, and its record of writers. -/
theorem MemoryOk.write (hs : MemoryOk s) (m : MemSize) (k : Programme) (x : Sample) :
    MemoryOk { s with sram := sramAfter m s k x, writers := writersAfter m s k } := by
  obtain ⟨hform, hwords, hwriters⟩ := hs
  refine ⟨sramAfter_wf m hform k x, fun e he => ?_, writersAfter_keys m hwriters k x⟩
  rcases mem_sramWrite he with rfl | he
  · exact wordAddr_lt m k _
  · exact hwords e he

theorem AirOk.writeRead (hs : AirOk s) (k : Programme) : AirOk (writeRead k s) where
  delays := forall_set hs.delays (hs.delays k).after
  memory := hs.memory.write s.memInUse k _
  mode := hs.mode.imp_right fun hb => forall_set (P := fun e : Delay => e.state = .bypass) hb (hb k)
  held := heldOk_iff.2 fun j => by
    intro n hn
    unfold Machine.writeRead at hn ⊢
    dsimp only at hn ⊢
    rw [set_get] at hn ⊢
    split at hn
    · next e =>
      subst e
      rw [if_pos rfl]
      exact (heldOk_iff.1 hs.held j).frame (hs.delays j) n hn
    · next e =>
      rw [if_neg e]
      exact (heldOk_iff.1 hs.held j n hn).after

/-! ## What a frame reads (R112, R115) -/

/-- A frame that reads a stored word delivers what was written there. -/
theorem HeldAt.delivers (h : HeldAt m s k) (hw : readCount s.delays[k] i ≠ s.delays[k].w) (hi : inserts s.delays[k] i = false) :
    sramRead (sramAfter m s k x) (wordAddr m k (readCount s.delays[k] i)) = some (sampleRead m s k x i) := by
  obtain ⟨v, hv⟩ := Option.isSome_iff_exists.1 (h.readOwn (x := x) (i := i)).1
  rw [hv, sampleRead_listed hi hw hv]

/-- The count of the read access of a frame. -/
theorem mem_accesses {a : BitVec 22} (h : .read a ∈ accesses m s k x i) :
    a = BitVec.ofNat 22 (wordAddr m k (if inserts s.delays[k] i then insertCount m s k else readCount s.delays[k] i)) := by
  unfold accesses at h
  dsimp only at h
  split at h
  · simp at h
  · simpa using h

/-- The read access of a frame is to a word of the delay's own, in an insert frame too. -/
theorem HeldAt.accessOwn (h : HeldAt m s k) {a : BitVec 22} (ha : .read a ∈ accesses m s k x i) :
    sramRead (writersAfter m s k) a.toNat = some k := by
  have hword (c : Count) : (BitVec.ofNat 22 (wordAddr m k c)).toNat = wordAddr m k c :=
    (BitVec.toNat_ofNat ..).trans (Nat.mod_eq_of_lt (wordAddr_lt m k c))
  rw [mem_accesses ha, hword]
  split
  · exact insertCount_own m s k (h.atRd (x := x)).2
  · exact (h.readOwn (x := x)).2

/-- A word with a writer was written. -/
theorem MemoryOk.written (hs : MemoryOk s) {a : Nat} (h : sramRead s.writers a = some k) : (sramRead s.sram a).isSome = true := by
  obtain ⟨-, -, hkeys⟩ := hs
  rw [sramRead_isSome, ← hkeys, ← sramRead_isSome, h]
  rfl

end Sys2Proof.Machine
end

section
/-! OBLIGATIONS. The conditions on the delays and their memory at every command. -/

namespace Sys2Proof.Machine

variable {s t : State}

/-- RESET brings the conditions about, and every other command keeps them. -/
theorem exec_keeps_air {c : Instr} (hs : AirOk s) (h : exec c s = .next t) : AirOk t := by
  cases c
  case reset => cases h; exact reset_airOk.beside rfl rfl rfl rfl rfl
  case resetRelease => cases h; exact hs.beside rfl rfl rfl rfl rfl
  case nop => exact hs.of_live h hs
  case setDelay q tag pl => exact hs.of_live h (hs.setDelay q tag pl)
  case dump q tag pl => exact hs.of_live h (hs.dump q tag pl)
  case setMemorySize q tag pl => exact hs.of_live h (hs.setMemorySize q tag pl)
  case delayTrigger k c out =>
    have htook : AirOk (took (.delayTrigger k c out) s) := hs.beside
    exact hs.of_live h (htook.delayTrigger k c out)
  case frameComputation x => exact hs.of_live h (hs.frame x)
  case delayWriteRead k => exact hs.of_live h (hs.writeRead k)
  case delayPeriodStart k => exact hs.of_live h (hs.delayPeriod k)
  case dumpJump k => exact hs.of_live h (hs.of_case _ (hs.delayPeriod k))
  case setEventMask q tag pl => exact hs.of_live h (hs.changes (setEventMask_changes q tag pl s))
  case readEvents q tag pl => exact hs.of_live h (hs.changes (readEvents_changes q tag pl s))
  case readParty q tag pl => exact hs.of_live h (hs.changes (readParty_changes q tag pl s))
  case setParty q tag pl => exact hs.of_live h (hs.changes (setParty_changes q tag pl s))
  case setSend q tag pl => exact hs.of_live h (hs.changes (setSend_changes q tag pl s))
  case setMonitor q tag pl => exact hs.of_live h (hs.changes (setMonitor_changes q tag pl s))
  case key q tag pl => exact hs.of_live h (hs.changes (keyCommand_changes q tag pl s))
  case setKey q tag pl => exact hs.of_live h (hs.changes (setKey_changes q tag pl s))
  case writeSteps q tag pl => exact hs.of_live h (hs.changes (writeSteps_changes q tag pl s))
  case writePitches q tag pl => exact hs.of_live h (hs.changes (writePitches_changes q tag pl s))
  case readToneMemory q tag pl => exact hs.of_live h (hs.changes (readToneMemory_changes q tag pl s))
  case setPlayer q tag pl => exact hs.of_live h (hs.changes (setPlayer_changes q tag pl s))
  case setToneRoute q tag pl => exact hs.of_live h (hs.changes (setToneRoute_changes q tag pl s))
  case setMetering q tag pl => exact hs.of_live h (hs.changes (setMetering_changes q tag pl s))
  case setSupervisor q tag pl => exact hs.of_live h (hs.changes (setSupervisor_changes q tag pl s))
  case clearClips q tag pl => exact hs.of_live h (hs.changes (clearClips_changes q tag pl s))
  case setCell q tag pl => exact hs.of_live h (hs.changes (setCell_changes q tag pl s))
  case setGpo q tag pl => exact hs.of_live h (hs.changes (setGpo_changes q tag pl s))
  case setLineTiming q tag pl => exact hs.of_live h (hs.changes (setLineTiming_changes q tag pl s))
  case setClock q tag pl => exact hs.of_live h (hs.changes (setClock_changes q tag pl s))
  case readStatus | readTable | readKeys | readPlayers | readDelay | readMeters | readSupervisors | readLogic =>
    exact hs.of_live h (hs.changes (plainRead_changes _ _ _ s _))
  case answer | screen | hold | ready | privateTalk | take | drop =>
    exact hs.of_live h (hs.changes (stateCommand_changes _ _ _ s _ _ _ _))
  case start | stop | abort => exact hs.of_live h (hs.changes (playerCommand_changes _ _ _ s _))
  case stepComplete | abortFadeEnd | measurementComplete | waitingEnd | realign =>
    exact hs.of_live h (hs.of_case _ hs.beside)
  all_goals exact hs.of_live h hs.beside

/-- Settles O56: a step that runs a command keeps the four conditions, and under them the counts from Rd up to the one just written
are words of the delay's own. -/
theorem stepsKeepTheDelaysInRange : Obligations.StepsKeepTheDelaysInRange := by
  unfold Obligations.StepsKeepTheDelaysInRange
  constructor
  · intro s t hd hm hmode hh h
    have hs : AirOk s := ⟨hd, hm, hmode, hh⟩
    have ht : AirOk t := by
      rcases step_next h with rfl | ⟨c, rest, -, hc⟩
      · exact hs
      · have hrest : AirOk { s with pending := rest } := hs.beside rfl rfl rfl rfl rfl
        exact exec_keeps_air hrest hc
    exact ⟨ht.delays, ht.memory, ht.mode, ht.held, fun k => ⟨(ht.delays k).length, fun hb => ((ht.delays k).bypass hb).1⟩⟩
  · intro s m k i x hd hmode hh hm
    have hheld : HeldAt m s k := heldAt_either hd hmode hh hm
    refine ⟨hheld.delivers, fun a hmemory ha => ?_⟩
    have hwriter := hheld.accessOwn ha
    exact ⟨(hmemory.write m k x).written hwriter, hwriter⟩

end Sys2Proof.Machine
end

section
/-! SUPPORT. A frame of a delay (R115, R197): its accesses, the lines of the delay memory port, and the length it leaves. -/

namespace Sys2Proof.Machine

variable {s : State} {m : MemSize} {k : Programme} {i : FrameIx} {x : Sample}

/-! ## The accesses and the lines (R197) -/

theorem accesses_empty (h : s.delays[k].rd = s.delays[k].w) :
    accesses m s k x i = [.write (BitVec.ofNat 22 (wordAddr m k s.delays[k].w)) x] := by
  rw [accesses, if_pos h]

theorem accesses_insert (h : s.delays[k].rd ≠ s.delays[k].w) (hi : inserts s.delays[k] i = true) :
    accesses m s k x i =
      [.write (BitVec.ofNat 22 (wordAddr m k s.delays[k].w)) x, .read (BitVec.ofNat 22 (wordAddr m k (insertCount m s k)))] := by
  rw [accesses, if_neg h, if_pos hi]

theorem accesses_read {c : Count} (h : s.delays[k].rd ≠ s.delays[k].w) (hi : inserts s.delays[k] i = false)
    (hc : readCount s.delays[k] i = c) :
    accesses m s k x i =
      [.write (BitVec.ofNat 22 (wordAddr m k s.delays[k].w)) x, .read (BitVec.ofNat 22 (wordAddr m k c))] := by
  rw [accesses, if_neg h, if_neg (Bool.eq_false_iff.1 hi), hc]

/-- The count read in an insert frame is Rd or one whose word the delay itself wrote. -/
theorem insertCount_cases (m : MemSize) (s : State) (k : Programme) :
    insertCount m s k = s.delays[k].rd ∨ sramRead (writersAfter m s k) (wordAddr m k (insertCount m s k)) = some k := by
  unfold insertCount
  dsimp only
  split
  · next h => exact .inr h
  · exact .inl rfl

/-- Outside an access MCS is high, the data lines are high-impedance and the address lines above the mode's are low. -/
theorem idleLines_inactive (s : State) :
    (idleLines s).mcs = true ∧ (idleLines s).md = none ∧ (idleLines s).ma.toNat < 2 * s.memInUse.capacity := by
  have hcapacity := capacity_pos s.memInUse
  unfold idleLines
  split
  · exact ⟨rfl, rfl, Nat.mul_pos (by omega) hcapacity⟩
  · refine ⟨rfl, rfl, ?_⟩
    unfold usedLines
    dsimp only
    rw [BitVec.toNat_ofNat]
    exact (Nat.mod_le _ _).trans_lt (Nat.mod_lt _ (by omega))

/-! ## The state after a frame of a delay -/

theorem writeRead_delay (k : Programme) (s : State) :
    (writeRead k s).delays[k] = delayAfter s.memInUse s k s.formed.buses[k.val] s.formed.index :=
  (set_get s.delays k k _).trans (if_pos rfl)

theorem writeRead_accesses (k : Programme) (s : State) :
    (writeRead k s).memPort[k] = accesses s.memInUse s k s.formed.buses[k.val] s.formed.index :=
  (set_get s.memPort k k _).trans (if_pos rfl)

/-- The length after a frame: one longer in an insert frame, one shorter in a skip frame, and otherwise as it was. -/
theorem delayAfter_length {n : MemSize} (h : DelayOk n s.delays[k]) :
    (inserts s.delays[k] i = true → (delayAfter m s k x i).length = s.delays[k].length + 1) ∧
    (skips s.delays[k] i = true → (delayAfter m s k x i).length + 1 = s.delays[k].length) ∧
    (inserts s.delays[k] i = false → skips s.delays[k] i = false → (delayAfter m s k x i).length = s.delays[k].length) := by
  refine ⟨fun hi => ?_, fun hk => ?_, fun hi hk => ?_⟩
  · rw [delayAfter_insert hi]; exact length_framed_insert h _
  · rw [delayAfter_skip hk]; exact length_framed_skip (skips_length hk) _
  · rw [delayAfter_normal hi hk]; exact length_framed_normal _ _

end Sys2Proof.Machine
end

section
/-! OBLIGATIONS. The write, the read, the output and the port accesses of a delay in a frame. -/

namespace Sys2Proof.Machine

/-- Settles O38: the frame computation by the read of the delay, and the write and read by the kind of the frame. -/
theorem delayFrameWritesAndReads : Obligations.DelayFrameWritesAndReads := by
  unfold Obligations.DelayFrameWritesAndReads
  refine ⟨fun s k x hr => ⟨_, live_of_released _ hr, frameComputation_memInUse s x, fun j => ?noAccess, ?output⟩,
    fun a v => ⟨rfl, rfl⟩, fun s k hr => ⟨_, live_of_released _ hr, rfl, sameBut_set _ _ _, sameBut_set _ _ _, rfl, ?frame⟩⟩
  case noAccess => rw [frameComputation_memPort]; exact replicate_get _ j
  case output =>
    intro d i rebuild inserting skipping word
    have hinserts : inserts d i = false ↔ ¬ inserting := Bool.eq_false_iff.trans (not_congr inserts_iff)
    have hskips : skips d i = true ↔ skipping := skips_iff
    have hbus : toSample (busOut s x (programmeBus k)) = (frameComputation x s).formed.buses[k.val] := by
      rw [fc_formed]; exact (ofFn_get (fun b : BusIx => toSample (busOut s x b)) (programmeBus k)).symm
    refine ⟨readCount d i, sampleRead s.memSize s k (toSample (busOut s x (programmeBus k))) i,
      fun h => readCount_skip (hskips.2 h), fun h => readCount_noSkip (Bool.eq_false_iff.2 (mt hskips.1 h)),
      fun h => sampleRead_insert (inserts_iff.2 h), fun h hw => ?own, fun h _ hw v hv => ?listed, ?air⟩
    case own =>
      refine (sampleRead_sameWord (hinserts.2 h) ?_).trans hbus
      exact hw.elim (congrArg word) id
    case listed => exact sampleRead_otherWord (hinserts.2 h) hw hv
    case air =>
      rw [fc_air, airOut]
      change airValue d.state _ i = _
      cases d.state <;> rfl
  case frame =>
    obtain ⟨hmcs, hmd, hma⟩ := idleLines_inactive (writeRead k s)
    rw [writeRead_memInUse] at hma
    refine ⟨hmcs, hmd, hma, ?_⟩
    intro d x rebuild inserting skipping word
    have hinserts : inserts d s.formed.index = true ↔ inserting := inserts_iff
    have hskips : skips d s.formed.index = true ↔ skipping := skips_iff
    have hnoInsert (h : ¬ inserting) : inserts d s.formed.index = false := Bool.eq_false_iff.2 (mt hinserts.1 h)
    have hnoSkip (h : ¬ skipping) : skips d s.formed.index = false := Bool.eq_false_iff.2 (mt hskips.1 h)
    rw [writeRead_delay, writeRead_accesses]
    refine ⟨sramRead_write_same _ _ _, fun a ha => sramRead_write_other _ _ _ _ ha, sramRead_write_same _ _ _,
      fun a ha => sramRead_write_other _ _ _ _ ha, fun h => ?inserts, fun h => ?skips, fun hi hk => ?normal, fun hd => ?length⟩
    case inserts =>
      have hi := hinserts.2 h
      refine ⟨delayAfter_insert hi, fun he => accesses_empty he, fun hne => ?_⟩
      exact ⟨_, insertCount_cases s.memInUse s k, accesses_insert hne hi⟩
    case skips =>
      have hk := hskips.2 h
      have hcount : readCount d s.formed.index = d.rd + 1 := readCount_skip hk
      refine ⟨_, delayAfter_skip hk, fun he => sampleRead_own (skips_not_inserts hk) (hcount.trans he), fun hne v hv => ?_,
        fun hne => ?_⟩
      · exact sampleRead_listed (skips_not_inserts hk) (hcount ▸ hne) (hcount ▸ hv)
      · exact accesses_read hne (skips_not_inserts hk) hcount
    case normal =>
      have hcount : readCount d s.formed.index = d.rd := readCount_noSkip (hnoSkip hk)
      refine ⟨_, delayAfter_normal (hnoInsert hi) (hnoSkip hk), fun he => ⟨?_, accesses_empty he⟩, fun hne => ⟨fun v hv => ?_, ?_⟩⟩
      · exact sampleRead_own (hnoInsert hi) (hcount.trans he)
      · exact sampleRead_listed (hnoInsert hi) (hcount ▸ hne) (hcount ▸ hv)
      · exact accesses_read hne (hnoInsert hi) hcount
    case length =>
      obtain ⟨hinsert, hskip, hnormal⟩ := delayAfter_length (m := s.memInUse) (x := x) (i := s.formed.index) hd
      exact ⟨fun h => hinsert (hinserts.2 h), fun h => hskip (hskips.2 h), fun hi hk => hnormal (hnoInsert hi) (hnoSkip hk)⟩

end Sys2Proof.Machine
end

section
/-! SUPPORT. The period-start event of a delay (R117 to R130): the quiet flag, the state taken, and the tests of the marks. -/

namespace Sys2Proof.Machine

variable {s : State} {k : Programme} {d : Delay}

/-! ## The delay after the event -/

/-- A flag for a change, in both spellings. -/
theorem bne_eq_decide {α : Type} [DecidableEq α] (a b : α) : (a != b) = decide (a ≠ b) := by
  by_cases h : a = b <;> simp [h]

/-- The quiet flag is not evaluated after a period in BYPASS (R119). -/
theorem quietAfter_eq (d : Delay) :
    quietAfter d = if d.state = .bypass then d.quiet
      else if levelCode d.peak ≤ d.qEnter then true else if d.qLeave ≤ levelCode d.peak then false else d.quiet := by
  unfold quietAfter
  by_cases h : d.state = .bypass
  · rw [if_pos h, if_neg (by rw [delay_on]; exact not_not.2 h)]
  · rw [if_neg h, if_pos ((delay_on _).2 h)]

/-- A delay that leaves BYPASS builds (R117). -/
theorem leaves_bypass_iff (d : Delay) :
    (d.state = .bypass ∧ stateFrom d ≠ .bypass) ↔ (d.state = .bypass ∧ stateFrom d = .building) := by
  refine and_congr_right fun h => ?_
  unfold stateFrom
  rw [if_pos h]
  split <;> simp

/-- The state taken after the quiet flag was set (R117, R119). -/
theorem takeState_judged (d : Delay) :
    takeState d.judged = { d with
      peak := 0, quiet := if d.state = .bypass ∧ stateFrom d = .building then false else quietAfter d, state := stateFrom d
      targetInUse := d.target, ratioInUse := d.ratioCode } := by
  rw [← ite_congr (propext (leaves_bypass_iff d)) (fun _ => rfl) fun _ => rfl]
  rfl

theorem delayPeriod_delay (k : Programme) (s : State) : (delayPeriod k s).delays[k] = periodDelay s.delays[k] := by
  have hset := set_get s.delays k k (periodDelay s.delays[k])
  rw [if_pos rfl] at hset
  rw [delayPeriod_delays]
  exact hset

/-! ## The tests of the marks (R129) -/

/-- What a mark has to meet, written out. -/
theorem guard_iff (st : PState) (m : MemSize) (d : Delay) (mark : Count) :
    (st.waiting = true ∧ guardHolds m d mark = true) ↔
      (st = .hold ∨ st = .ready) ∧ d.state ≠ .bypass ∧ 1 ≤ (mark - d.rd).toNat ∧ (mark - d.rd).toNat ≤ m.capacity := by
  have hwaiting : st.waiting = true ↔ st = .hold ∨ st = .ready := by cases st <;> simp [PState.waiting]
  rw [hwaiting, guardHolds, Bool.and_eq_true, delay_on, decide_eq_true_iff]

theorem guardTested_none {r : PartyRec} (h : r.echoMark = none) : guardTested s k r = { r with echoMark := none } := by
  rw [guardTested, h]
  exact congrArg (fun e => { r with echoMark := e }) h

theorem guardTested_some {r : PartyRec} {mark : Count} (h : r.echoMark = some mark) :
    guardTested s k r = { r with
      echoMark := if r.programme = k ∧ ¬ (r.state.waiting = true ∧ guardHolds s.memSize s.delays[k] mark = true) then none
        else some mark } := by
  rw [guardTested, h]
  dsimp only
  split
  · rfl
  · exact congrArg (fun e => { r with echoMark := e }) h

end Sys2Proof.Machine
end

section
/-! OBLIGATIONS. The period-start event of a delay. -/

namespace Sys2Proof.Machine

/-- Settles O39: the delay by its state, and each mark by its test against the delay as it then is. -/
theorem delayPeriodStartTakesTheState : Obligations.DelayPeriodStartTakesTheState := by
  unfold Obligations.DelayPeriodStartTakesTheState
  intro s k hr
  refine ⟨⟨_, live_of_released _ hr, ?changes, ?others, ?raised, ?delay, fun p => ?mark⟩, _, live_of_released _ hr, ?jump⟩
  case changes =>
    have hchanges := delayPeriod_changes s k
    rw [delayPeriod_memInUse] at hchanges
    exact hchanges
  case others => rw [delayPeriod_delays]; exact sameBut_set _ _ _
  case raised =>
    rw [delayPeriod_delay, ← bne_eq_decide]
    exact raised_of_ports (delayPeriod_ports k s)
  case delay =>
    intro d e jump taken judged
    have hjudged : judged = quietAfter d := (quietAfter_eq d).symm
    have htaken : taken = stateFrom d := rfl
    have he : e = periodDelay d := delayPeriod_delay k s
    rw [he, hjudged, htaken]
    cases hstate : d.state with
    | dumpOut => rw [periodDelay_out hstate]; rfl
    | dumpIn =>
      rw [periodDelay_in hstate, takeState_judged, if_neg (c := d.state = .bypass ∧ _) (by rw [hstate]; nofun)]
      rfl
    | bypass | building | atTarget | shrinking =>
      rw [periodDelay_run (by rw [hstate]; nofun) (by rw [hstate]; nofun), takeState_judged, hstate]
      rfl
  case mark =>
    rw [delayPeriod_party, delayPeriod_delay]
    cases hmark : s.parties[p].echoMark with
    | none => exact guardTested_none hmark
    | some mark =>
      rw [guardTested_some hmark]
      simp only [guard_iff, set_get_self]
  case jump =>
    by_cases hstate : s.delays[k].state = .dumpOut
    · rw [if_pos hstate, if_pos hstate]
      exact live_of_released _ hr
    · rw [if_neg hstate, if_neg hstate]

end Sys2Proof.Machine
end

section
/-! SUPPORT. Dump requests (R122, R126): the roles, and what a request that names a delay is answered. -/

namespace Sys2Proof.Machine

variable {s : State} {q : PortIx} {tag : Byte} {k : Programme}

theorem dumpAllowed_iff (role : Role) (k : Programme) :
    dumpAllowed role k = true ↔ role = .engineering ∨ role = .studio k := by
  cases role <;> simp [dumpAllowed]

/-- One delay stored. -/
def putDelay (k : Programme) (d : Delay) (s : State) : State := { s with delays := s.delays.set k d }

@[simp] theorem putDelay_delay (k : Programme) (d : Delay) (s : State) : (putDelay k d s).delays[k] = d := set_get_self ..

theorem putDelay_sameBut (k : Programme) (d : Delay) (s : State) : SameBut k s.delays (putDelay k d s).delays := sameBut_set _ _ _

/-- A DUMP that names a delay. -/
theorem dump_named :
    dump q tag [programmeCode k] s =
      if s.ports[q].role = .engineering ∨ s.ports[q].role = .studio k then
        reply q tag (dumpRequest s.delays[k]).2 (delayBody (putDelay k (dumpRequest s.delays[k]).1 s) k)
          (putDelay k (dumpRequest s.delays[k]).1 s)
      else reply q tag .notAllowed (delayBody s k) s := by
  unfold dump
  simp only [prog_some, dumpAllowed_iff]
  rfl

/-- A delivered output is a rise where it is 1 and the one held is 0 (R126). -/
theorem delayTrigger_selected {c : CellIx} (out : Bool) (h : s.delays[k].trigger = some c) :
    delayTrigger k c out s =
      putDelay k
        (if s.delays[k].triggerOut = false ∧ out = true then (dumpRequest { s.delays[k] with triggerOut := true }).1
          else { s.delays[k] with triggerOut := out }) s := by
  have hrise : (!s.delays[k].triggerOut && out) = true ↔ s.delays[k].triggerOut = false ∧ out = true := by
    rw [Bool.and_eq_true, Bool.not_eq_true']
  rw [delayTrigger, if_pos h]
  by_cases hr : s.delays[k].triggerOut = false ∧ out = true
  · rw [if_pos (hrise.2 hr), if_pos hr, hr.2]; rfl
  · rw [if_neg (mt hrise.1 hr), if_neg hr]; rfl

theorem delayTrigger_other {c : CellIx} (out : Bool) (h : s.delays[k].trigger ≠ some c) : delayTrigger k c out s = s := if_neg h

end Sys2Proof.Machine
end

section
/-! OBLIGATIONS. Dump requests. -/

namespace Sys2Proof.Machine

/-- Settles O40: the table of R122 is that of a dump request, which the command and the trigger make. -/
theorem dumpRequestsAreTakenByTheState : Obligations.DumpRequestsAreTakenByTheState := by
  unfold Obligations.DumpRequestsAreTakenByTheState
  intro taken
  have htaken (d : Delay) : taken d = dumpRequest d := rfl
  refine ⟨fun s q tag k hr => ⟨_, live_of_released _ hr, ?command⟩, fun s k c out hr => ⟨_, live_of_released _ hr, ?trigger⟩⟩
  case command =>
    rw [dump_named, htaken]
    by_cases hrole : s.ports[q].role = .engineering ∨ s.ports[q].role = .studio k
    · rw [if_pos hrole, if_pos hrole]
      exact ⟨rfl, putDelay_sameBut k _ s, putDelay_delay .., replied_of_ports rfl⟩
    · rw [if_neg hrole, if_neg hrole]
      exact ⟨rfl, replied_self ..⟩
  case trigger =>
    by_cases hc : s.delays[k].trigger = some c
    · rw [if_pos hc, delayTrigger_selected out (s := took (.delayTrigger k c out) s) hc, htaken]
      exact ⟨rfl, putDelay_sameBut k _ (took (.delayTrigger k c out) s), putDelay_delay ..⟩
    · rw [if_neg hc, delayTrigger_other out (s := took (.delayTrigger k c out) s) hc]
      rfl

end Sys2Proof.Machine
end

section
/-! SUPPORT. SET DELAY and SET MEMORY SIZE (R113, R131): the delay stored, setting by setting, and the mode stored. -/

namespace Sys2Proof.Machine

variable {s : State} {q : PortIx} {tag : Byte} {k : Programme} {sh sl t1 t0 g1 g0 r qe ql hm trig : Byte}

/-! ## The settings of SET DELAY (R131) -/

theorem clamp_zero (hi v : Nat) : clamp 0 hi v = (min hi v, decide (hi < v)) := by simp [clamp]

/-- The hold-feed mode as SET DELAY leaves it. -/
def feedStored (s : State) (k : Programme) (sl hm : Byte) : HoldFeed :=
  if sl.getLsbD 5 then if hm = 0 then .pre else .air else s.delays[k].holdFeed

/-- A selected hold-feed code of 0 or 1 passes its check (R131). -/
theorem checked_holdFeed (h : sl.getLsbD 5 = true → hm.toNat < 2) :
    checked (sl.getLsbD 5) (holdFeedOf hm) s.delays[k].holdFeed = some (feedStored s k sl hm) := by
  unfold feedStored
  cases hsel : sl.getLsbD 5 with
  | false => rfl
  | true =>
    have hcode : hm = 0 ∨ hm = 1 := by have := h hsel; bv_omega
    rcases hcode with rfl | rfl <;> rfl

/-- The level code for entering quiet as SET DELAY leaves it. -/
def enterStored (s : State) (k : Programme) (sl qe : Byte) : Nat := if sl.getLsbD 3 then min 14 qe.toNat else s.delays[k].qEnter

/-- The level code for leaving quiet that SET DELAY asks for. -/
def leaveStored (s : State) (k : Programme) (sl ql : Byte) : Nat := if sl.getLsbD 4 then min 15 ql.toNat else s.delays[k].qLeave

/-- A delay after the settings that SET DELAY selects (R131). -/
def settingsStored (s : State) (k : Programme) (sl : Byte) (target segment : Nat) (r qe ql hm : Byte) (trigger : Option CellIx) :
    Delay :=
  { s.delays[k] with
    target := if sl.getLsbD 0 then 32 * min target s.memSize.targetMax else s.delays[k].target
    segment := if sl.getLsbD 1 then min 65534 segment else s.delays[k].segment
    ratioCode := if sl.getLsbD 2 then ⟨min 3 r.toNat, by omega⟩ else s.delays[k].ratioCode
    qEnter := enterStored s k sl qe
    qLeave := max (leaveStored s k sl ql) (enterStored s k sl qe + 1)
    holdFeed := feedStored s k sl hm
    trigger := trigger
    triggerOut := triggerOutAfter s s.delays[k].trigger trigger s.delays[k].triggerOut }

theorem delayStored_eq (target segment : Nat) (trigger : Option CellIx) :
    (delayStored s k (selected sh sl) target segment r qe ql (feedStored s k sl hm) trigger).1 =
      settingsStored s k sl target segment r qe ql hm trigger := by
  have hleave (l e : Nat) : (if l ≤ e then e + 1 else l) = max l (e + 1) := by split <;> omega
  unfold delayStored settingsStored enterStored leaveStored
  simp only [selected_lt sh sl _ (by omega : 0 < 8), selected_lt sh sl _ (by omega : 1 < 8), selected_lt sh sl _ (by omega : 2 < 8),
    selected_lt sh sl _ (by omega : 3 < 8), selected_lt sh sl _ (by omega : 4 < 8), store_value, clamp_zero, hleave]

/-- A selected value is out of its range, or the two level codes are not in order. -/
def SettingsAdjusted (s : State) (k : Programme) (sl : Byte) (target segment : Nat) (r qe ql : Byte) : Prop :=
  (sl.getLsbD 0 ∧ s.memSize.targetMax < target) ∨ (sl.getLsbD 1 ∧ 65534 < segment) ∨ (sl.getLsbD 2 ∧ 3 < r.toNat) ∨
    (sl.getLsbD 3 ∧ 14 < qe.toNat) ∨ (sl.getLsbD 4 ∧ 15 < ql.toNat) ∨ leaveStored s k sl ql ≤ enterStored s k sl qe

theorem delayStored_adjusted (target segment : Nat) (mode : HoldFeed) (trigger : Option CellIx) :
    (delayStored s k (selected sh sl) target segment r qe ql mode trigger).2 = true ↔
      SettingsAdjusted s k sl target segment r qe ql := by
  unfold delayStored SettingsAdjusted enterStored leaveStored
  simp only [selected_lt sh sl _ (by omega : 0 < 8), selected_lt sh sl _ (by omega : 1 < 8), selected_lt sh sl _ (by omega : 2 < 8),
    selected_lt sh sl _ (by omega : 3 < 8), selected_lt sh sl _ (by omega : 4 < 8), store_value, store_adjusted, clamp_zero,
    Bool.or_eq_true, decide_eq_true_eq, or_assoc]

/-- A payload of SET DELAY that passes its checks: the settings are stored, and ADJUSTED says whether a value was (R131). -/
theorem setDelay_named (hmode : sl.getLsbD 5 = true → hm.toNat < 2) (htrig : sl.getLsbD 6 = true → trig.toNat ≤ 8) :
    ∃ (trigger : Option CellIx) (adjusted : Bool) (new : Delay),
      (∀ c : CellIx, trigger = some c ↔ if sl.getLsbD 6 then trig.toNat = c.val else s.delays[k].trigger = some c) ∧
      (adjusted = true ↔ SettingsAdjusted s k sl (be16 t1 t0) (be16 g1 g0) r qe ql) ∧
      new = settingsStored s k sl (be16 t1 t0) (be16 g1 g0) r qe ql hm trigger ∧
      setDelay q tag [programmeCode k, sh, sl, t1, t0, g1, g0, r, qe, ql, hm, trig] s =
        if s.ports[q].role = .engineering then reply q tag (okOr adjusted) (delayBody (putDelay k new s) k) (putDelay k new s)
        else reply q tag .notAllowed (delayBody s k) s := by
  obtain ⟨trigger, htrigger, hcell⟩ := checked_trigger (sl.getLsbD 6) s.delays[k].trigger htrig
  have hfeed := checked_holdFeed (s := s) (k := k) hmode
  refine ⟨trigger, _, _, hcell, delayStored_adjusted (sh := sh) _ _ (feedStored s k sl hm) trigger,
    delayStored_eq (sh := sh) _ _ trigger, ?_⟩
  simp only [setDelay, prog_some, selected_lt sh sl 5 (by omega), selected_lt sh sl 6 (by omega), hfeed, htrigger]
  rfl

/-! ## SET MEMORY SIZE (R113) -/

theorem memSize_some (m : MemSize) : memSizeOf m.code = some m := by cases m <;> rfl

/-- A payload of SET MEMORY SIZE that names a mode. -/
theorem setMemorySize_named (m : MemSize) :
    setMemorySize q tag [m.code] s =
      if s.ports[q].role ≠ .engineering then reply q tag .notAllowed [s.memSize.code] s
      else if s.delays[0].state ≠ .bypass ∨ s.delays[1].state ≠ .bypass then reply q tag .busy [s.memSize.code] s
      else
        reply q tag (if m.lMax < s.delays[0].target ∨ m.lMax < s.delays[1].target then .adjusted else .ok) [m.code]
          { s with memSize := m, delays := Vector.ofFn fun k : Programme => lowerTarget m s.delays[k] } := by
  unfold setMemorySize
  simp only [memSize_some, Bool.or_eq_true, delay_on, okOr_eq _ _ decide_eq_true_iff, target_max]

end Sys2Proof.Machine
end

section
/-! OBLIGATIONS. SET DELAY and SET MEMORY SIZE. -/

namespace Sys2Proof.Machine

/-- Settles O41: the delay stored, setting by setting, and the mode stored with both delays in BYPASS. -/
theorem delaySettingsAreStored : Obligations.DelaySettingsAreStored := by
  unfold Obligations.DelaySettingsAreStored
  refine ⟨fun s q tag k sh sl t1 t0 g1 g0 r qe ql hm trig hr hmode htrig => ⟨_, live_of_released _ hr, ?delay⟩,
    fun s q tag m hr => ⟨_, live_of_released _ hr, ?size⟩⟩
  case delay =>
    obtain ⟨trigger, adjusted, new, hcell, hadjusted, hnew, hset⟩ := setDelay_named (s := s) (q := q) (tag := tag) (k := k)
      (sh := sh) (t1 := t1) (t0 := t0) (g1 := g1) (g0 := g0) (r := r) (qe := qe) (ql := ql) hmode htrig
    rw [hset]
    by_cases hrole : s.ports[q].role = .engineering
    · unfold SettingsAdjusted at hadjusted
      rw [if_pos hrole, if_pos hrole, okOr_eq _ _ hadjusted, reply_delays, putDelay_delay, hnew]
      exact ⟨rfl, putDelay_sameBut k _ s, rfl, apply_ite Fin.val .., hcell, replied_of_ports rfl⟩
    · rw [if_neg hrole, if_neg hrole]
      exact ⟨rfl, replied_self ..⟩
  case size =>
    rw [setMemorySize_named]
    by_cases hrole : s.ports[q].role ≠ .engineering
    · rw [if_pos hrole, if_pos hrole]
      exact ⟨rfl, replied_self ..⟩
    · rw [if_neg hrole, if_neg hrole]
      by_cases hon : s.delays[0].state ≠ .bypass ∨ s.delays[1].state ≠ .bypass
      · rw [if_pos hon, if_pos hon]
        exact ⟨rfl, replied_self ..⟩
      · rw [if_neg hon, if_neg hon]
        refine ⟨rfl, fun k => ?_, replied_of_ports rfl⟩
        rw [reply_delays, ofFn_get, lowerTarget, target_max]

end Sys2Proof.Machine
end

section
/-! SUPPORT. One tone player (R140 to R147): what START, STOP, ABORT, its trigger and a period start make of it, and that each
keeps it in range. -/

namespace Sys2Proof.Machine

variable {x : Player} {m : Vector Step 256}

/-! ## START, STOP and ABORT by the player's state (R143 to R145) -/

theorem startPlayer_idle (h : x.state = .idle) :
    startPlayer x = ({ x with
      state := .playing, latchedStart := x.start, latchedTick := x.tick, stepPending := true, remaining := 0 }, .ok) := by
  unfold startPlayer; rw [h]

theorem startPlayer_playing (h : x.state = .playing) :
    startPlayer x = (x, if x.abort = .clear then .already else .busy) := by
  unfold startPlayer; rw [h]; dsimp only; split <;> rfl

theorem startPlayer_stopping (h : x.state = .stopping) :
    startPlayer x = if x.abort = .clear then ({ x with state := .playing }, .ok) else (x, .busy) := by
  unfold startPlayer; rw [h]

/-- A STOP is taken by a player that plays without an abort. -/
theorem stopPlayer_eq :
    stopPlayer x = if x.state = .playing ∧ x.abort = .clear then ({ x with state := .stopping }, .ok) else (x, .already) := by
  unfold stopPlayer
  cases h : x.state <;> simp

/-- An ABORT is taken by a busy player that has none. -/
theorem abortPlayer_eq :
    abortPlayer x = if x.state ≠ .idle ∧ x.abort = .clear then ({ x with abort := .requested }, .ok) else (x, .already) := by
  unfold abortPlayer
  cases h : x.state <;> simp

/-- A START leaves a player that plays, cancels a stop without an abort, and begins a play from IDLE. -/
theorem PlayerOk.started (h : PlayerOk x) : PlayerOk (startPlayer x).1 := by
  cases hst : x.state with
  | idle =>
    rw [startPlayer_idle hst]
    exact { h with latched := h.tick, remaining := Nat.zero_le _, idle := nofun, waiting := fun _ => rfl }
  | playing => rw [startPlayer_playing hst]; exact h
  | stopping =>
    rw [startPlayer_stopping hst]
    split
    · exact { h with idle := nofun }
    · exact h

theorem PlayerOk.stopped (h : PlayerOk x) : PlayerOk (stopPlayer x).1 := by
  rw [stopPlayer_eq]
  split
  · exact { h with idle := nofun }
  · exact h

theorem PlayerOk.aborted (h : PlayerOk x) : PlayerOk (abortPlayer x).1 := by
  rw [abortPlayer_eq]
  split
  · next hbusy => exact { h with idle := fun hst => absurd hst hbusy.1 }
  · exact h

/-! ## The trigger (R146) -/

/-- A rise is an output of 1 where the one held is 0, a fall the other way about. -/
theorem triggeredPlayer_eq (out : Bool) :
    triggeredPlayer out x =
      if x.triggerOut = false ∧ out = true then (startPlayer { x with triggerOut := out }).1
      else if x.triggerOut = true ∧ out = false ∧ x.mode = .continuous then (stopPlayer { x with triggerOut := out }).1
      else { x with triggerOut := out } := by
  unfold triggeredPlayer
  simp only [Bool.and_eq_true, Bool.not_eq_true', beq_iff_eq, and_assoc]

/-- A delivered output reaches a player that has a trigger cell. -/
theorem PlayerOk.triggered (h : PlayerOk x) {c : CellIx} (hc : x.trigger = some c) (out : Bool) :
    PlayerOk (triggeredPlayer out x) := by
  have hout : PlayerOk { x with triggerOut := out } :=
    { h with trigger := fun hn => by rw [show x.trigger = none from hn] at hc; cases hc }
  rw [triggeredPlayer_eq]
  split
  · exact hout.started
  · split
    · exact hout.stopped
    · exact hout

/-! ## The period start (R142, R145) -/

/-- Every step of a tone memory is in range. -/
def StepsOk (m : Vector Step 256) : Prop := ∀ a : Fin 256, m[a].ok

theorem StepsOk.at (h : StepsOk m) (a : Byte) : (stepAt m a).ok := h ⟨a.toNat, a.isLt⟩

theorem PlayerOk.ended (h : PlayerOk x) : PlayerOk (endPlay x) :=
  { h with remaining := Nat.zero_le _, idle := fun _ => ⟨rfl, rfl, rfl⟩, waiting := nofun }

/-- The longest step, of 63 ticks of 255 periods, lasts 16065 periods. -/
theorem PlayerOk.began (h : PlayerOk x) (hm : StepsOk m) (hbusy : x.state ≠ .idle) (a : Byte) : PlayerOk (beginStep m a x) :=
  { h with
    current := hm.at a
    remaining := Nat.mul_le_mul (hm.at a).2 h.latched.2
    idle := fun hst => absurd hst hbusy
    waiting := nofun }

theorem PlayerOk.completed (h : PlayerOk x) (hm : StepsOk m) (hbusy : x.state ≠ .idle) : PlayerOk (completeStep m x) := by
  unfold completeStep
  split
  · exact h.ended
  · split
    · split
      · exact h.ended
      · exact h.began hm hbusy _
    · exact h.began hm hbusy _

theorem PlayerOk.progressed (h : PlayerOk x) (hm : StepsOk m) (hbusy : x.state ≠ .idle) : PlayerOk (stepProgress m x) := by
  unfold stepProgress
  split
  · split
    · exact h.ended
    · exact h.began hm hbusy _
  · next hpending =>
    split
    · exact h.completed hm hbusy
    · exact { h with
        remaining := (Nat.sub_le _ _).trans h.remaining
        idle := fun hst => absurd hst hbusy
        waiting := fun hp => absurd hp hpending }

theorem PlayerOk.tookAbort (h : PlayerOk x) : PlayerOk (takeAbort x) := by
  unfold takeAbort
  split
  · next hbusy => exact { h with idle := fun hst => absurd hst hbusy.1 }
  · exact h

theorem PlayerOk.period (h : PlayerOk x) (hm : StepsOk m) : PlayerOk (periodPlayer m x) := by
  unfold periodPlayer
  split
  · exact h
  · next hbusy =>
    split
    · exact h.ended
    · exact (h.progressed hm hbusy).tookAbort

/-! ## The waveform (R147) -/

/-- A frame moves the phase alone, and only in a step with a pitch. -/
theorem advancePhase_eq (pitches : Vector Nat 32) :
    advancePhase pitches x = { x with
      phase := if x.state ≠ .idle ∧ x.stepPending = false ∧ x.current.pitch ≠ 0 then
        x.phase + BitVec.ofNat 16 pitches[x.current.pitch] else x.phase } := by
  unfold advancePhase inStep
  simp only [Bool.and_eq_true, bne_iff_ne, Bool.not_eq_true', and_assoc]
  split <;> rfl

theorem PlayerOk.advanced (h : PlayerOk x) (pitches : Vector Nat 32) : PlayerOk (advancePhase pitches x) := by
  rw [advancePhase_eq]; exact { h with }

end Sys2Proof.Machine
end

section
/-! SUPPORT. One level supervisor (R160 to R163): an evaluation and a SET SUPERVISOR keep it in range. -/

namespace Sys2Proof.Machine

variable {x : Sup}

/-! ## Values brought into range -/

theorem clamp_range {lo hi : Nat} (h : lo ≤ hi) (v : Nat) : lo ≤ (clamp lo hi v).1 ∧ (clamp lo hi v).1 ≤ hi := by
  unfold clamp; omega

/-- A setting stays in range, whether it is selected or kept. -/
theorem store_clamp_range {lo hi held : Nat} (h : lo ≤ hi) (hheld : lo ≤ held ∧ held ≤ hi) (sel : Bool) (v : Nat) :
    lo ≤ (store sel (clamp lo hi v) held).1 ∧ (store sel (clamp lo hi v) held).1 ≤ hi := by
  rw [store_value]
  split
  · exact clamp_range h v
  · exact hheld

/-! ## Evaluations (R161) -/

/-- A bad code counts up to K, where ALARM begins, and a good one sets the count back (R161). -/
theorem SupOk.evaluated (h : SupOk x) (c : Nat) : SupOk (supAfter x c) := by
  unfold supAfter
  split
  · exact h
  · split
    · split
      · exact { h with run := Nat.zero_le _, alarm := nofun }
      · exact h
    · next halarm =>
      split
      · split
        · exact { h with run := Nat.le_refl _, alarm := fun _ => rfl }
        · next hrun => exact { h with run := Nat.le_of_not_le hrun, alarm := fun ha => absurd ha halarm }
      · exact { h with run := Nat.zero_le _, alarm := fun ha => absurd ha halarm }

/-! ## Settings stored (R162, R163) -/

/-- A hysteresis brought into range fits a threshold that leaves room for 1 (R162). -/
theorem hystIn_range {mode : SupMode} {t : Nat} (h : 1 ≤ hystRoom mode t) (v : Nat) :
    1 ≤ (hystIn mode t v).1 ∧ (hystIn mode t v).1 ≤ 3 ∧ (hystIn mode t v).1 ≤ hystRoom mode t := by
  have hclamp := clamp_range (by omega : 1 ≤ 3) v
  unfold hystIn
  omega

/-- A threshold brought into the range of its mode leaves room for a hysteresis of 1 (R162). -/
theorem thresholdIn_range (mode : SupMode) (v : Nat) :
    (thresholdIn mode v).1 ≤ 15 ∧ 1 ≤ hystRoom mode (thresholdIn mode v).1 := by
  cases mode with
  | silence => have := clamp_range (by omega : 0 ≤ 14) v; dsimp only [hystRoom, thresholdIn]; omega
  | overload => have := clamp_range (by omega : 1 ≤ 15) v; dsimp only [hystRoom, thresholdIn]; omega

/-- A hysteresis within the room of its threshold gives an exit level in range (R160). -/
theorem SupOk.of_room (hthreshold : x.threshold ≤ 15) (hroom : x.hyst ≤ hystRoom x.mode x.threshold)
    (hyst : 1 ≤ x.hyst ∧ x.hyst ≤ 3) (count : 1 ≤ x.count ∧ x.count ≤ 15) (run : x.run ≤ x.count)
    (alarm : x.alarm = true → x.run = x.count) : SupOk x where
  threshold := by
    split
    · next hmode => rw [hmode] at hroom; dsimp only [hystRoom] at hroom; omega
    · next hmode => rw [hmode] at hroom; exact ⟨hroom, hthreshold⟩
  hyst := hyst
  count := count
  run := run
  alarm := alarm

/-- The whole supervisor is brought into range, and restarts where its K changes, so that its count stays within K (R162, R163). -/
theorem SupOk.stored (h : SupOk x) (sel : Nat → Bool) (en pt : Byte) (mode : SupMode) (th k hy : Byte) :
    SupOk (supRestarted x (supStored x sel en pt mode th k hy).1) := by
  obtain ⟨hthreshold, hroom⟩ := thresholdIn_range mode (if sel 3 then th.toNat else x.threshold)
  obtain ⟨hlow, hhigh, hfits⟩ := hystIn_range hroom (if sel 5 then hy.toNat else x.hyst)
  have hcount := clamp_range (by omega : 1 ≤ 15) (if sel 4 then k.toNat else x.count)
  unfold supRestarted
  split
  · exact .of_room hthreshold hfits ⟨hlow, hhigh⟩ hcount (Nat.zero_le _) nofun
  · next hkept =>
    have hsame : x.count = (supStored x sel en pt mode th k hy).1.count := by
      simp only [supRestarts, Bool.or_eq_true, not_or, bne_iff_ne, ne_eq, not_not] at hkept
      exact hkept.1.2
    exact .of_room hthreshold hfits ⟨hlow, hhigh⟩ hcount (hsame ▸ h.run) fun ha => (h.alarm ha).trans hsame

end Sys2Proof.Machine
end

section
/-! SUPPORT. The conditions on the tone memory, the players and the routes, and those on metering: what each command that touches
them owes to them. -/

namespace Sys2Proof.Machine

/-- The metering context in range (R153). -/
structure MeterOk (m : Meter) : Prop where
  window : 6 ≤ m.window ∧ m.window ≤ 12
  inUse : 6 ≤ m.windowInUse ∧ m.windowInUse ≤ 12
  repeats : 2 ≤ m.repeats ∧ m.repeats ≤ 255
  left : m.periodsLeft ≤ 32512
  stopped : m.phase = .stopped ↔ m.periodsLeft = 0

/-- A meter point in range, with a clear clip flag where it gets no reports (R153, R158). -/
structure PointOk (n : PointIx) (x : Point) : Prop where
  code : x.code ≤ 15
  clip : n.val < 24 ∨ (48 ≤ n.val ∧ n.val < 64) ∨ 69 ≤ n.val → x.clip = false

theorem metersOk_iff (s : State) :
    MetersOk s ↔ MeterOk s.meter ∧ (∀ n : PointIx, PointOk n s.points[n]) ∧ ∀ n : SupIx, SupOk s.sups[n] :=
  ⟨fun h => ⟨⟨h.window, h.inUse, h.repeats, h.left, h.stopped⟩, fun n => ⟨h.codes n, h.clips n⟩, h.sups⟩,
    fun ⟨hm, hp, hu⟩ => ⟨hm.window, hm.inUse, hm.repeats, hm.left, hm.stopped, fun n => (hp n).code, fun n => (hp n).clip, hu⟩⟩

variable {s t : State}

/-! ## Commands beside them -/

/-- A state with the same tones meets the condition too; each operation beside them has its law in Laws/State. -/
theorem TonesOk.beside (hs : TonesOk s) (hm : t.steps = s.steps := by simp) (hi : t.pitches = s.pitches := by simp)
    (hp : t.players = s.players := by simp) (hr : t.routes = s.routes := by simp) : TonesOk t := by
  obtain ⟨steps, pitches, players, routes⟩ := hs
  rw [← hm] at steps
  rw [← hi] at pitches
  rw [← hp] at players
  rw [← hr] at routes
  exact ⟨steps, pitches, players, routes⟩

/-- A state with the same meters meets the condition too. -/
theorem MetersOk.beside (hs : MetersOk s) (hm : t.meter = s.meter := by simp) (hp : t.points = s.points := by simp)
    (hu : t.sups = s.sups := by simp) : MetersOk t := by
  rw [metersOk_iff] at hs ⊢
  rw [hm, hp, hu]
  exact hs

/-- A command that changes nothing of the tones, by the law of what it changes in Laws/Commands. -/
theorem TonesOk.changes (hs : TonesOk s) {u : State} (h : t = u) (hm : u.steps = s.steps := by rfl)
    (hi : u.pitches = s.pitches := by rfl) (hp : u.players = s.players := by rfl) (hr : u.routes = s.routes := by rfl) :
    TonesOk t := h ▸ hs.beside hm hi hp hr

/-- A command that changes nothing of the meters. -/
theorem MetersOk.changes (hs : MetersOk s) {u : State} (h : t = u) (hm : u.meter = s.meter := by rfl)
    (hp : u.points = s.points := by rfl) (hu : u.sups = s.sups := by rfl) : MetersOk t := h ▸ hs.beside hm hp hu

theorem TonesOk.reply (hs : TonesOk s) {q : PortIx} {tag : Byte} {r : Result} {body : List Byte} :
    TonesOk (reply q tag r body s) := hs.beside

theorem MetersOk.reply (hs : MetersOk s) {q : PortIx} {tag : Byte} {r : Result} {body : List Byte} :
    MetersOk (reply q tag r body s) := hs.beside

/-! ## The tone memory (R136 to R138) -/

theorem stepOf_ok (a b : Byte) : (stepOf a b).1.ok := by unfold stepOf Step.ok; dsimp only; omega

/-- The entries of a list are made by its function. -/
theorem pairs_forall {α : Type} {f : Byte → Byte → α} {P : α → Prop} (hf : ∀ a b, P (f a b)) :
    ∀ {l : List Byte} {xs : List α}, pairs f l = some xs → ∀ x ∈ xs, P x
  | [], xs, h => by cases h; exact nofun
  | [_], xs, h => by cases h
  | a :: b :: rest, xs, h => by
    obtain ⟨ys, hys, rfl⟩ := Option.map_eq_some_iff.1 h
    exact List.forall_mem_cons.2 ⟨hf a b, pairs_forall hf hys⟩

/-- Steps in range stored into a memory in range. -/
theorem StepsOk.stored {xs : List Step} (hxs : ∀ x ∈ xs, x.ok) :
    ∀ {m : Vector Step 256} (a : Byte), StepsOk m → StepsOk (storeSteps m a xs) := by
  induction xs with
  | nil => exact fun a hm => hm
  | cons x l ih =>
    intro m a hm
    obtain ⟨hx, hl⟩ := List.forall_mem_cons.1 hxs
    exact ih hl (a + 1) (forall_set (i := ⟨a.toNat, a.isLt⟩) hm hx)

/-- Increments in range stored among increments in range. -/
theorem storePitches_forall {P : Nat → Prop} {xs : List Nat} (hxs : ∀ x ∈ xs, P x) :
    ∀ {m : Vector Nat 32} (a : Fin 32), (∀ i : Fin 32, P m[i]) → ∀ i : Fin 32, P (storePitches m a xs)[i] := by
  induction xs with
  | nil => exact fun a hm => hm
  | cons x l ih =>
    intro m a hm
    obtain ⟨hx, hl⟩ := List.forall_mem_cons.1 hxs
    exact ih hl (a + 1) (forall_set hm hx)

/-- A tone memory in range stored. -/
theorem TonesOk.withSteps (hs : TonesOk s) {m : Vector Step 256} (hm : StepsOk m) : TonesOk { s with steps := m } :=
  { hs with steps := hm }

theorem TonesOk.withPitches (hs : TonesOk s) {m : Vector Nat 32} (hm : ∀ i : Fin 32, 1 ≤ m[i] ∧ m[i] ≤ 16384) :
    TonesOk { s with pitches := m } := { hs with pitches := hm }

theorem TonesOk.writeSteps (hs : TonesOk s) (q : PortIx) (tag : Byte) (pl : List Byte) : TonesOk (writeSteps q tag pl s) := by
  unfold Machine.writeSteps
  split
  · split
    · next xs hxs =>
      have hok : ∀ x ∈ xs.map Prod.fst, x.ok := List.forall_mem_map.2 (pairs_forall (P := fun e => e.1.ok) stepOf_ok hxs)
      split
      · split
        · exact hs.reply
        · split
          · exact hs.reply
          · exact (hs.withSteps (StepsOk.stored hok _ hs.steps)).reply
      · exact hs.reply
    · exact hs.reply
  · exact hs.reply

theorem TonesOk.writePitches (hs : TonesOk s) (q : PortIx) (tag : Byte) (pl : List Byte) :
    TonesOk (writePitches q tag pl s) := by
  unfold Machine.writePitches
  split
  · split
    · next xs _ hxs =>
      have hok : ∀ x ∈ xs.map Prod.fst, 1 ≤ x ∧ x ≤ 16384 :=
        List.forall_mem_map.2 (pairs_forall (P := fun e => 1 ≤ e.1 ∧ e.1 ≤ 16384) (fun a b => clamp_range (by omega) _) hxs)
      split
      · split
        · exact hs.reply
        · split
          · exact hs.reply
          · exact (hs.withPitches (storePitches_forall hok _ hs.pitches)).reply
      · exact hs.reply
    · exact hs.reply
  · exact hs.reply

/-! ## The players and the routes (R140 to R148) -/

/-- A player in range stored. -/
theorem TonesOk.withPlayer (hs : TonesOk s) {j : PlayerIx} {x : Player} (hx : PlayerOk x) :
    TonesOk { s with players := s.players.set j x } :=
  { hs with players := forall_set hs.players hx }

/-- A route with a stored gain code. -/
theorem TonesOk.withRoute (hs : TonesOk s) {r : Fin 6} {x : Route} (hx : gainOk x.gain) :
    TonesOk { s with routes := s.routes.set r x } :=
  { hs with routes := forall_set (P := fun x : Route => gainOk x.gain) hs.routes hx }

theorem TonesOk.playerCommand (hs : TonesOk s) {f : Player → Player × Result} (hf : ∀ x, PlayerOk x → PlayerOk (f x).1)
    (q : PortIx) (tag : Byte) (pl : List Byte) : TonesOk (playerCommand f q tag pl s) := by
  unfold Machine.playerCommand
  split
  · split
    · exact hs.reply
    · next j _ => exact (hs.withPlayer (hf _ (hs.players j))).reply
  · exact hs.reply

theorem TonesOk.playerTrigger (hs : TonesOk s) (j : PlayerIx) (c : CellIx) (out : Bool) : TonesOk (playerTrigger j c out s) := by
  unfold Machine.playerTrigger
  split
  · next hc => exact hs.withPlayer ((hs.players j).triggered hc out)
  · exact hs

theorem TonesOk.setPlayer (hs : TonesOk s) (q : PortIx) (tag : Byte) (pl : List Byte) : TonesOk (setPlayer q tag pl s) := by
  unfold Machine.setPlayer
  split
  · split
    · exact hs.reply
    · next j _ =>
      split
      · split
        · refine TonesOk.reply (hs.withPlayer ?_)
          refine { hs.players j with tick := ?_, trigger := ?_ }
          · exact store_clamp_range (by omega) (hs.players j).tick _ _
          · rintro rfl
            exact triggerOutAfter_none (hs.players j).trigger
        · exact hs.reply
      · exact hs.reply
  · exact hs.reply

theorem TonesOk.setToneRoute (hs : TonesOk s) (q : PortIx) (tag : Byte) (pl : List Byte) :
    TonesOk (setToneRoute q tag pl s) := by
  unfold Machine.setToneRoute
  split
  · split
    · exact hs.reply
    · next r _ =>
      dsimp only
      split
      · exact (hs.withRoute (store_gainOk _ _ _ (hs.routes r))).reply
      · exact hs.reply
  · exact hs.reply

theorem TonesOk.playerPeriod (hs : TonesOk s) (j : PlayerIx) : TonesOk (playerPeriod j s) :=
  TonesOk.beside (hs.withPlayer ((hs.players j).period hs.steps)) (raiseIf_steps ..) (raiseIf_pitches ..) (raiseIf_players ..)
    (raiseIf_routes ..)

theorem fc_players (x : FrameIn) (s : State) :
    (frameComputation x s).players = Vector.ofFn fun j : PlayerIx => advancePhase s.pitches s.players[j] := by
  unfold frameComputation
  rw [endFrame_players, raiseIf_players]

theorem TonesOk.frame (hs : TonesOk s) (x : FrameIn) : TonesOk (frameComputation x s) := by
  have hplayers : TonesOk { s with players := Vector.ofFn fun j : PlayerIx => advancePhase s.pitches s.players[j] } :=
    { hs with players := forall_ofFn fun j => (hs.players j).advanced _ }
  exact hplayers.beside (hp := fc_players x s)

end Sys2Proof.Machine
end

section
/-! SUPPORT. The metering context and its points (R153 to R159): each phase it takes, and the commands that touch it. -/

namespace Sys2Proof.Machine

variable {s : State} {m : Meter}

/-! ## The phases (R154, R155) -/

/-- A window of 6 to 12 runs 2 to 128 periods. -/
theorem windowPeriods_range (h : 6 ≤ m.window ∧ m.window ≤ 12) : 2 ≤ 2 ^ (m.window - 5) ∧ 2 ^ (m.window - 5) ≤ 128 :=
  ⟨Nat.le_self_pow (by omega) 2, Nat.pow_le_pow_right (by omega) (by omega : m.window - 5 ≤ 7)⟩

theorem MeterOk.measuring (h : MeterOk m) :
    MeterOk { m with phase := .measuring, windowInUse := m.window, periodsLeft := 2 ^ (m.window - 5) } := by
  have hperiods := windowPeriods_range h.window
  exact ⟨h.window, h.window, h.repeats, by dsimp only; omega, ⟨nofun, fun hzero => by dsimp only at hzero; omega⟩⟩

/-- The longest wait, of 254 windows of 128 periods, lasts 32512 periods. -/
theorem MeterOk.waiting (h : MeterOk m) :
    MeterOk { m with phase := .waiting, periodsLeft := (m.repeats - 1) * 2 ^ (m.window - 5) } := by
  obtain ⟨hlow, hhigh⟩ := windowPeriods_range h.window
  have hrepeats := h.repeats
  have hmost : (m.repeats - 1) * 2 ^ (m.window - 5) ≤ 254 * 128 := Nat.mul_le_mul (by omega) hhigh
  have hleast : 0 < (m.repeats - 1) * 2 ^ (m.window - 5) := Nat.mul_pos (by omega) (by omega)
  exact ⟨h.window, h.inUse, h.repeats, hmost, ⟨nofun, fun hzero => absurd hzero hleast.ne'⟩⟩

theorem MeterOk.idle (h : MeterOk m) : MeterOk { m with phase := .stopped, periodsLeft := 0 } :=
  ⟨h.window, h.inUse, h.repeats, Nat.zero_le _, ⟨fun _ => rfl, fun _ => rfl⟩⟩

theorem MeterOk.counted (h : MeterOk m) (hleft : ¬ m.periodsLeft ≤ 1) : MeterOk { m with periodsLeft := m.periodsLeft - 1 } := by
  have hmost := h.left
  have hstopped := h.stopped
  exact ⟨h.window, h.inUse, h.repeats, by dsimp only; omega, by dsimp only; rw [hstopped]; omega⟩

theorem MetersOk.begun (hs : MetersOk s) : MetersOk (beginMeasurement s) := by
  rw [metersOk_iff] at hs ⊢
  obtain ⟨hm, hp, hu⟩ := hs
  exact ⟨hm.measuring, fun n => by unfold beginMeasurement; rw [ofFn_get]; exact ⟨(hp n).code, (hp n).clip⟩, hu⟩

/-- The metering context in range under the same points and supervisors. -/
theorem MetersOk.withMeter (hs : MetersOk s) (hm : MeterOk m) : MetersOk { s with meter := m } := by
  rw [metersOk_iff] at hs ⊢
  exact ⟨hm, hs.2⟩

theorem MetersOk.meter (hs : MetersOk s) : MeterOk s.meter := ((metersOk_iff s).1 hs).1

theorem MetersOk.completed (hs : MetersOk s) : MetersOk (completeMeasurement s) := by
  rw [metersOk_iff] at hs ⊢
  obtain ⟨hm, hp, hu⟩ := hs
  unfold completeMeasurement
  rw [raiseIf_meter, raiseIf_points, raiseIf_sups]
  refine ⟨⟨hm.window, hm.inUse, hm.repeats, hm.left, hm.stopped⟩, fun n => ?_, forall_ofFn fun n => (hu n).evaluated _⟩
  rw [ofFn_get]
  exact ⟨levelCode_le _, (hp n).clip⟩

theorem MetersOk.afterMeasurement (hs : MetersOk s) : MetersOk (afterMeasurement s) := by
  unfold Machine.afterMeasurement
  split
  · exact hs.withMeter hs.meter.idle
  · exact hs.begun
  · exact hs.withMeter hs.meter.waiting

theorem MetersOk.meterPeriod (hs : MetersOk s) : MetersOk (meterPeriod s) := by
  unfold Machine.meterPeriod
  split
  · split
    · exact hs
    all_goals exact hs.begun
  · split
    · exact hs.completed.afterMeasurement
    · next hleft => exact hs.withMeter (hs.meter.counted hleft)
  · split
    · exact hs.withMeter hs.meter.idle
    · exact hs.begun
    · split
      · exact hs.begun
      · next hleft => exact hs.withMeter (hs.meter.counted hleft)

/-! ## The commands and the frame (R156 to R163) -/

theorem MetersOk.setMetering (hs : MetersOk s) (q : PortIx) (tag : Byte) (pl : List Byte) :
    MetersOk (setMetering q tag pl s) := by
  unfold Machine.setMetering
  split
  · split
    · exact hs.reply
    · split
      · refine MetersOk.reply ?_
        rw [metersOk_iff] at hs ⊢
        obtain ⟨hm, hp, hu⟩ := hs
        have hwindow := store_clamp_range (by omega : 6 ≤ 12) hm.window
        have hrepeats := store_clamp_range (by omega : 2 ≤ 255) hm.repeats
        refine ⟨⟨hwindow _ _, hm.inUse, hrepeats _ _, hm.left, hm.stopped⟩, fun n => ?_, hu⟩
        rw [ofFn_get]
        exact ⟨(hp n).code, (hp n).clip⟩
      · exact hs.reply
  · exact hs.reply

theorem MetersOk.clearClips (hs : MetersOk s) (q : PortIx) (tag : Byte) (pl : List Byte) : MetersOk (clearClips q tag pl s) := by
  unfold Machine.clearClips
  split
  · split
    · split
      · refine MetersOk.reply ?_
        rw [metersOk_iff] at hs ⊢
        obtain ⟨hm, hp, hu⟩ := hs
        refine ⟨hm, fun n => ?_, hu⟩
        rw [ofFn_get]
        split
        · exact ⟨(hp n).code, fun _ => rfl⟩
        · exact hp n
      · exact hs.reply
    · exact hs.reply
  · exact hs.reply

theorem MetersOk.setSupervisor (hs : MetersOk s) (q : PortIx) (tag : Byte) (pl : List Byte) :
    MetersOk (setSupervisor q tag pl s) := by
  unfold Machine.setSupervisor
  split
  · split
    · exact hs.reply
    · next i _ =>
      split
      · exact hs.reply
      · split
        · refine MetersOk.reply ?_
          rw [metersOk_iff] at hs ⊢
          obtain ⟨hm, hp, hu⟩ := hs
          rw [raiseIf_meter, raiseIf_points, raiseIf_sups]
          exact ⟨hm, hp, forall_set hu ((hu i).stored ..)⟩
        · exact hs.reply
  · exact hs.reply

/-- A frame sets no clip flag of a point that gets no reports (R158). -/
theorem PointOk.after {n : PointIx} (h : PointOk n s.points[n]) (x : FrameIn) : PointOk n (pointAfter s x n) :=
  ⟨h.code, fun hn => by
    rw [← Bool.not_eq_true, pointAfter_clip, h.clip hn, clipReport_none hn]
    simp⟩

theorem MetersOk.frame (hs : MetersOk s) (x : FrameIn) : MetersOk (frameComputation x s) := by
  rw [metersOk_iff] at hs ⊢
  obtain ⟨hm, hp, hu⟩ := hs
  rw [frameComputation_meter, frameComputation_sups]
  exact ⟨hm, fun n => fc_points x s n ▸ (hp n).after x, hu⟩

end Sys2Proof.Machine
end

section
/-! OBLIGATIONS. The tones and the meters at every command. -/

namespace Sys2Proof.Machine

variable {s t : State}

/-- The conditions on the tones and on the meters. -/
structure ToneMetersOk (s : State) : Prop where
  tones : TonesOk s
  meters : MetersOk s

theorem ToneMetersOk.beside (hs : ToneMetersOk s) (hm : t.steps = s.steps := by simp) (hi : t.pitches = s.pitches := by simp)
    (hp : t.players = s.players := by simp) (hr : t.routes = s.routes := by simp) (hc : t.meter = s.meter := by simp)
    (ho : t.points = s.points := by simp) (hu : t.sups = s.sups := by simp) : ToneMetersOk t :=
  ⟨hs.tones.beside hm hi hp hr, hs.meters.beside hc ho hu⟩

theorem ToneMetersOk.changes (hs : ToneMetersOk s) {u : State} (h : t = u) (hm : u.steps = s.steps := by rfl)
    (hi : u.pitches = s.pitches := by rfl) (hp : u.players = s.players := by rfl) (hr : u.routes = s.routes := by rfl)
    (hc : u.meter = s.meter := by rfl) (ho : u.points = s.points := by rfl) (hu : u.sups = s.sups := by rfl) :
    ToneMetersOk t := h ▸ hs.beside hm hi hp hr hc ho hu

/-- A live command has its effect, or none while RESET is asserted. -/
theorem ToneMetersOk.of_live {e : State} (hs : ToneMetersOk s) (h : live s e = .next t) (he : ToneMetersOk e) :
    ToneMetersOk t := by
  rw [live_next] at h
  split at h
  · exact h ▸ hs
  · exact h ▸ he

/-- A row that is a case of another event keeps what that event keeps. -/
theorem ToneMetersOk.of_case (hs : ToneMetersOk s) (b : Prop) [Decidable b] (ht : ToneMetersOk t) :
    ToneMetersOk (if b then t else s) := by
  split <;> assumption

theorem ToneMetersOk.playerCommand (hs : ToneMetersOk s) {f : Player → Player × Result} (hf : ∀ x, PlayerOk x → PlayerOk (f x).1)
    (q : PortIx) (tag : Byte) (pl : List Byte) : ToneMetersOk (playerCommand f q tag pl s) :=
  ⟨hs.tones.playerCommand hf q tag pl, hs.meters.changes (playerCommand_changes q tag pl s f)⟩

theorem ToneMetersOk.playerPeriod (hs : ToneMetersOk s) (j : PlayerIx) : ToneMetersOk (playerPeriod j s) :=
  ⟨hs.tones.playerPeriod j, hs.meters.changes (playerPeriod_changes s j)⟩

theorem ToneMetersOk.meterPeriod (hs : ToneMetersOk s) : ToneMetersOk (meterPeriod s) :=
  ⟨hs.tones.changes (meterPeriod_changes s), hs.meters.meterPeriod⟩

/-- RESET brings the conditions about, and every other command keeps them. -/
theorem exec_keeps_toneMeters {c : Instr} (hs : ToneMetersOk s) (h : exec c s = .next t) : ToneMetersOk t := by
  have hreset : ToneMetersOk State.reset := ⟨reset_tonesOk, reset_metersOk⟩
  cases c
  case reset => cases h; exact hreset.beside rfl rfl rfl rfl rfl rfl rfl
  case resetRelease => cases h; exact hs.beside rfl rfl rfl rfl rfl rfl rfl
  case nop => exact hs.of_live h hs
  case writeSteps q tag pl => exact hs.of_live h ⟨hs.tones.writeSteps q tag pl, hs.meters.changes (writeSteps_changes q tag pl s)⟩
  case writePitches q tag pl =>
    exact hs.of_live h ⟨hs.tones.writePitches q tag pl, hs.meters.changes (writePitches_changes q tag pl s)⟩
  case setPlayer q tag pl => exact hs.of_live h ⟨hs.tones.setPlayer q tag pl, hs.meters.changes (setPlayer_changes q tag pl s)⟩
  case setToneRoute q tag pl =>
    exact hs.of_live h ⟨hs.tones.setToneRoute q tag pl, hs.meters.changes (setToneRoute_changes q tag pl s)⟩
  case start q tag pl => exact hs.of_live h (hs.playerCommand (fun _ => PlayerOk.started) q tag pl)
  case stop q tag pl => exact hs.of_live h (hs.playerCommand (fun _ => PlayerOk.stopped) q tag pl)
  case abort q tag pl => exact hs.of_live h (hs.playerCommand (fun _ => PlayerOk.aborted) q tag pl)
  case playerTrigger j c out =>
    have htook : ToneMetersOk (took (.playerTrigger j c out) s) := hs.beside
    exact hs.of_live h ⟨htook.tones.playerTrigger j c out, htook.meters.beside⟩
  case playerPeriodStart j => exact hs.of_live h (hs.playerPeriod j)
  case stepComplete j => exact hs.of_live h (hs.of_case _ (hs.playerPeriod j))
  case abortFadeEnd j => exact hs.of_live h (hs.of_case _ (hs.playerPeriod j))
  case frameComputation x => exact hs.of_live h ⟨hs.tones.frame x, hs.meters.frame x⟩
  case setMetering q tag pl =>
    exact hs.of_live h ⟨hs.tones.changes (setMetering_changes q tag pl s), hs.meters.setMetering q tag pl⟩
  case clearClips q tag pl =>
    exact hs.of_live h ⟨hs.tones.changes (clearClips_changes q tag pl s), hs.meters.clearClips q tag pl⟩
  case setSupervisor q tag pl =>
    exact hs.of_live h ⟨hs.tones.changes (setSupervisor_changes q tag pl s), hs.meters.setSupervisor q tag pl⟩
  case meterPeriodStart => exact hs.of_live h hs.meterPeriod
  case measurementComplete | waitingEnd => exact hs.of_live h (hs.of_case _ hs.meterPeriod)
  case setEventMask q tag pl => exact hs.of_live h (hs.changes (setEventMask_changes q tag pl s))
  case readEvents q tag pl => exact hs.of_live h (hs.changes (readEvents_changes q tag pl s))
  case readParty q tag pl => exact hs.of_live h (hs.changes (readParty_changes q tag pl s))
  case setParty q tag pl => exact hs.of_live h (hs.changes (setParty_changes q tag pl s))
  case setSend q tag pl => exact hs.of_live h (hs.changes (setSend_changes q tag pl s))
  case setMonitor q tag pl => exact hs.of_live h (hs.changes (setMonitor_changes q tag pl s))
  case key q tag pl => exact hs.of_live h (hs.changes (keyCommand_changes q tag pl s))
  case setKey q tag pl => exact hs.of_live h (hs.changes (setKey_changes q tag pl s))
  case readToneMemory q tag pl => exact hs.of_live h (hs.changes (readToneMemory_changes q tag pl s))
  case setDelay q tag pl => exact hs.of_live h (hs.changes (setDelay_changes q tag pl s))
  case dump q tag pl => exact hs.of_live h (hs.changes (dump_changes q tag pl s))
  case setMemorySize q tag pl => exact hs.of_live h (hs.changes (setMemorySize_changes q tag pl s))
  case setCell q tag pl => exact hs.of_live h (hs.changes (setCell_changes q tag pl s))
  case setGpo q tag pl => exact hs.of_live h (hs.changes (setGpo_changes q tag pl s))
  case setLineTiming q tag pl => exact hs.of_live h (hs.changes (setLineTiming_changes q tag pl s))
  case setClock q tag pl => exact hs.of_live h (hs.changes (setClock_changes q tag pl s))
  case readStatus | readTable | readKeys | readPlayers | readDelay | readMeters | readSupervisors | readLogic =>
    exact hs.of_live h (hs.changes (plainRead_changes _ _ _ s _))
  case answer | screen | hold | ready | privateTalk | take | drop =>
    exact hs.of_live h (hs.changes (stateCommand_changes _ _ _ s _ _ _ _))
  case dumpJump | realign => exact hs.of_live h (hs.of_case _ hs.beside)
  all_goals exact hs.of_live h hs.beside

/-- Settles O58: a step that runs a command keeps both conditions. -/
theorem stepsKeepTonesAndMetersInRange : Obligations.StepsKeepTonesAndMetersInRange := by
  unfold Obligations.StepsKeepTonesAndMetersInRange
  intro s t htones hmeters h
  have hs : ToneMetersOk s := ⟨htones, hmeters⟩
  have ht : ToneMetersOk t := by
    rcases step_next h with rfl | ⟨c, rest, -, hc⟩
    · exact hs
    · have hrest : ToneMetersOk { s with pending := rest } := hs.beside rfl rfl rfl rfl rfl rfl rfl
      exact exec_keeps_toneMeters hrest hc
  exact ⟨ht.tones, ht.meters⟩

end Sys2Proof.Machine
end

section
/-! SUPPORT. The tone memory commands (R138, R139): a payload of whole entries, the entries stored, and the bytes of a read. -/

namespace Sys2Proof.Machine

variable {s : State} {q : PortIx} {tag a : Byte} {i : Fin 32} {xs : List (Byte × Byte)}

/-! ## Payloads of whole entries (R138, R198) -/

/-- The entries of a list with the values they store. -/
theorem map_entries {α : Type} (f : Byte → Byte → Stored α) (xs : List (Byte × Byte)) :
    (xs.map fun e => f e.1 e.2).map Prod.fst = xs.map fun e => (f e.1 e.2).1 := List.map_map

theorem any_entries {α : Type} (f : Byte → Byte → Stored α) (xs : List (Byte × Byte)) :
    (xs.map fun e => f e.1 e.2).any Prod.snd = true ↔ ∃ e ∈ xs, (f e.1 e.2).2 = true := by
  rw [List.any_map, List.any_eq_true]; rfl

/-- A write that the role and the players allow, and its two refusals (R138). -/
theorem written_or_refused {t u : State} {body : List Byte} {Written : Prop}
    (ht : t =
      if s.ports[q].role ≠ .engineering then reply q tag .notAllowed body s
      else if ∃ j : PlayerIx, s.players[j].state ≠ .idle then reply q tag .busy body s
      else u) (hu : t = u → Written) :
    if s.ports[q].role ≠ .engineering then t = { s with ports := t.ports } ∧ Replied q tag .notAllowed body 0 s t
    else if ∃ j : PlayerIx, s.players[j].state ≠ .idle then
      t = { s with ports := t.ports } ∧ Replied q tag .busy body 0 s t
    else Written := by
  by_cases hrole : s.ports[q].role ≠ .engineering
  · rw [if_pos hrole] at ht ⊢
    exact ht ▸ ⟨rfl, replied_self ..⟩
  · rw [if_neg hrole] at ht ⊢
    by_cases hbusy : ∃ j : PlayerIx, s.players[j].state ≠ .idle
    · rw [if_pos hbusy] at ht ⊢
      exact ht ▸ ⟨rfl, replied_self ..⟩
    · rw [if_neg hbusy] at ht ⊢
      exact hu ht

/-- A WRITE STEPS of 1 to 60 entries. -/
theorem writeSteps_entries (h1 : 1 ≤ xs.length) (h60 : xs.length ≤ 60) :
    ∃ m, m = storeSteps s.steps a (xs.map fun e => (stepOf e.1 e.2).1) ∧
      writeSteps q tag (a :: xs.flatMap fun e => [e.1, e.2]) s =
        if s.ports[q].role ≠ .engineering then reply q tag .notAllowed (stepsBody s a xs.length) s
        else if ∃ j : PlayerIx, s.players[j].state ≠ .idle then reply q tag .busy (stepsBody s a xs.length) s
        else reply q tag (if ∃ e ∈ xs, e.2.toNat % 64 = 0 then .adjusted else .ok)
          (stepsBody { s with steps := m } a xs.length) { s with steps := m } := by
  have hadjusted := okOr_eq _ (∃ e ∈ xs, e.2.toNat % 64 = 0) ((any_entries stepOf xs).trans (by simp [stepOf]))
  refine ⟨_, rfl, ?_⟩
  unfold writeSteps
  simp only [pairs_flat, List.length_map, h1, h60, and_self, if_true, busy_iff, map_entries, hadjusted]

/-- A WRITE PITCHES of 1 to 32 entries. -/
theorem writePitches_entries (h1 : 1 ≤ xs.length) (h32 : xs.length ≤ 32) :
    ∃ m, m = storePitches s.pitches i (xs.map fun e => (pitchOf e.1 e.2).1) ∧
      writePitches q tag (byte i.val :: xs.flatMap fun e => [e.1, e.2]) s =
        if s.ports[q].role ≠ .engineering then reply q tag .notAllowed (pitchesBody s i xs.length) s
        else if ∃ j : PlayerIx, s.players[j].state ≠ .idle then reply q tag .busy (pitchesBody s i xs.length) s
        else reply q tag
          (if ∃ e ∈ xs, e.1.toNat * 256 + e.2.toNat = 0 ∨ 16384 < e.1.toNat * 256 + e.2.toNat then .adjusted else .ok)
          (pitchesBody { s with pitches := m } i xs.length) { s with pitches := m } := by
  have hadjusted := okOr_eq _ (∃ e ∈ xs, e.1.toNat * 256 + e.2.toNat = 0 ∨ 16384 < e.1.toNat * 256 + e.2.toNat)
    ((any_entries pitchOf xs).trans (by simp [pitchOf, clamp, be16]))
  have hindex : fin? 32 (byte i.val).toNat = some i := fin_some i (byte_toNat (by omega))
  refine ⟨_, rfl, ?_⟩
  unfold writePitches
  simp only [hindex, pairs_flat, List.length_map, h1, h32, and_self, if_true, busy_iff, map_entries, hadjusted]

/-! ## The bytes of a read (R139, R198) -/

/-- Byte i of entry j in a run of two-byte entries. -/
theorem run_getElem (f : Nat → List Byte) (h : ∀ j, (f j).length = 2) {n j i : Nat} (hj : j < n) (hi : i < 2) :
    ((List.range n).flatMap f)[2 * j + i]? = (f j)[i]? := by
  rw [← List.map_coe_finRange_eq_range, List.flatMap_map]
  exact flat_getElem (fun j : Fin n => f j.val) (fun j => h j.val) ⟨j, hj⟩ hi

/-- The two bytes of entry j behind the three that open a body. -/
theorem body_entry (x y z : Byte) (f : Nat → List Byte) (h : ∀ j, (f j).length = 2) {n j : Nat} (hj : j < n) :
    ([x, y, z] ++ (List.range n).flatMap f)[3 + 2 * j]? = (f j)[0]? ∧
      ([x, y, z] ++ (List.range n).flatMap f)[4 + 2 * j]? = (f j)[1]? := by
  have hbyte (i : Nat) : ([x, y, z] ++ (List.range n).flatMap f)[i + 3]? = ((List.range n).flatMap f)[i]? := rfl
  rw [show 3 + 2 * j = 2 * j + 0 + 3 by omega, show 4 + 2 * j = 2 * j + 1 + 3 by omega, hbyte, hbyte]
  exact ⟨run_getElem f h hj Nat.zero_lt_two, run_getElem f h hj Nat.one_lt_two⟩

/-- The first byte of a step: END, level and pitch index (R198). -/
theorem stepBytes_first (x : Step) :
    (stepBytes x)[0]? = some (BitVec.ofNat 8 ((if x.last then 128 else 0) + 32 * x.level.val + x.pitch.val)) := by
  have hlast : x.last.toNat * 128 = if x.last then 128 else 0 := by cases x.last <;> rfl
  rw [← hlast, Nat.mul_comm 32]
  rfl

/-! ## READ TONE MEMORY (R139) -/

theorem readToneMemory_steps (n : Byte) :
    readToneMemory q tag [0, a, n] s =
      if 1 ≤ n.toNat ∧ n.toNat ≤ 60 then reply q tag .ok (stepsBody s a n.toNat) s else reply q tag .illegal [] s := rfl

theorem readToneMemory_pitches (n : Byte) :
    readToneMemory q tag [1, a, n] s =
      if h : a.toNat < 32 ∧ 1 ≤ n.toNat ∧ n.toNat ≤ 32 then reply q tag .ok (pitchesBody s ⟨a.toNat, h.1⟩ n.toNat) s
      else reply q tag .illegal [] s := by
  by_cases ha : a.toNat < 32
  · have hindex : fin? 32 a.toNat = some ⟨a.toNat, ha⟩ := dif_pos ha
    by_cases hn : 1 ≤ n.toNat ∧ n.toNat ≤ 32
    · rw [dif_pos ⟨ha, hn⟩]; simp [readToneMemory, hindex, hn]
    · rw [dif_neg fun h => hn h.2]; simp [readToneMemory, hindex, hn]
  · have hindex : fin? 32 a.toNat = none := dif_neg ha
    rw [dif_neg fun h => ha h.1]; simp [readToneMemory, hindex]

/-- Selections other than 0 and 1 name no memory. -/
theorem readToneMemory_undefined {c : Byte} (n : Byte) (hc : 2 ≤ c.toNat) :
    readToneMemory q tag [c, a, n] s = reply q tag .illegal [] s := by
  have hc0 : c ≠ 0 := by rintro rfl; exact absurd hc (by decide)
  have hc1 : c ≠ 1 := by rintro rfl; exact absurd hc (by decide)
  exact (if_neg hc0).trans (if_neg hc1)

end Sys2Proof.Machine
end

section
/-! OBLIGATIONS. The tone memory. -/

namespace Sys2Proof.Machine

/-- Settles O42: a write stores its run of entries, a reply gives a run byte by byte, and a read is answered by its selection. -/
theorem toneMemoryIsWrittenAndRead : Obligations.ToneMemoryIsWrittenAndRead := by
  unfold Obligations.ToneMemoryIsWrittenAndRead
  refine ⟨fun s q tag a xs hr h1 h60 => ?steps, fun s q tag a xs hr h1 h32 => ?pitches,
    fun s a n => ⟨rfl, len_steps s a n, fun j hj => ?stepBytes⟩, fun s a n => ⟨rfl, len_pitches s a n, fun j hj => ?pitchBytes⟩,
    fun s q tag c a n hr hc => ⟨_, live_of_released _ hr, ?undefined⟩,
    fun s q tag a n hr => ⟨⟨_, live_of_released _ hr, ?readSteps⟩, _, live_of_released _ hr, ?readPitches⟩⟩
  case steps =>
    obtain ⟨m, hm, hwrite⟩ := writeSteps_entries (s := s) (q := q) (tag := tag) (a := a) h1 h60
    refine ⟨_, live_of_released _ hr, ?_⟩
    generalize writeSteps q tag _ s = t at hwrite ⊢
    refine written_or_refused hwrite ?_
    rintro rfl
    refine ⟨rfl, fun n h => ?_, fun b hb => ?_, replied_of_ports rfl⟩
    · rw [reply_steps, hm, storeSteps_get _ _ _ (by rw [List.length_map]; omega) n (by rwa [List.length_map]), List.getElem_map]
      rfl
    · rw [reply_steps, hm]
      exact storeSteps_other _ _ _ _ (by rwa [List.length_map])
  case pitches =>
    obtain ⟨m, hm, hwrite⟩ := writePitches_entries (s := s) (q := q) (tag := tag) (i := a) h1 h32
    refine ⟨_, live_of_released _ hr, ?_⟩
    generalize writePitches q tag _ s = t at hwrite ⊢
    refine written_or_refused hwrite ?_
    rintro rfl
    refine ⟨rfl, fun n h => ?_, fun b hb => ?_, replied_of_ports rfl⟩
    · rw [reply_pitches, hm, storePitches_get _ _ _ (by rw [List.length_map]; omega) n (by rwa [List.length_map]),
        List.getElem_map]
      rfl
    · rw [reply_pitches, hm]
      exact storePitches_other _ _ _ _ (by rwa [List.length_map])
  case stepBytes =>
    obtain ⟨hfirst, hsecond⟩ := body_entry 0 a (byte n) (fun j => stepBytes (stepAt s.steps (a + BitVec.ofNat 8 j)))
      (fun _ => rfl) hj
    exact ⟨hfirst.trans (stepBytes_first _), hsecond⟩
  case pitchBytes => exact body_entry 1 (byte a.val) (byte n) (fun j => bytes16 s.pitches[a + Fin.ofNat 32 j]) (fun _ => rfl) hj
  case undefined =>
    rw [readToneMemory_undefined n hc]
    exact ⟨rfl, replied_self ..⟩
  case readSteps =>
    rw [readToneMemory_steps]
    refine ⟨by split <;> rfl, ?_⟩
    split <;> exact replied_self ..
  case readPitches =>
    rw [readToneMemory_pitches]
    refine ⟨by split <;> rfl, ?_⟩
    split <;> exact replied_self ..

end Sys2Proof.Machine
end

section
/-! SUPPORT. SET PLAYER and SET TONE ROUTE (R141, R148): the player stored, setting by setting, and the route stored. -/

namespace Sys2Proof.Machine

variable {s : State} {q : PortIx} {tag : Byte} {j : PlayerIx} {sh sl a tick m trig st set gain : Byte}

/-! ## The settings of SET PLAYER (R141) -/

/-- The mode as SET PLAYER leaves it. -/
def playModeStored (s : State) (j : PlayerIx) (sl m : Byte) : PlayMode :=
  if sl.getLsbD 2 then if m = 0 then .oneshot else .continuous else s.players[j].mode

/-- A selected mode code of 0 or 1 passes its check. -/
theorem checked_playMode (h : sl.getLsbD 2 = true → m.toNat < 2) :
    checked (sl.getLsbD 2) (playModeOf m) s.players[j].mode = some (playModeStored s j sl m) := by
  unfold playModeStored
  cases hsel : sl.getLsbD 2 with
  | false => rfl
  | true =>
    have hcode : m = 0 ∨ m = 1 := by have := h hsel; bv_omega
    rcases hcode with rfl | rfl <;> rfl

/-- A byte is at most 255, so that only a tick length of 0 is brought into range. -/
theorem clamp_tick (tick : Byte) : clamp 1 255 tick.toNat = (max 1 tick.toNat, decide (tick = 0)) := by
  have hzero : tick.toNat < 1 ∨ 255 < tick.toNat ↔ tick = 0 := by bv_omega
  unfold clamp
  rw [decide_eq_decide.2 hzero, min_eq_right (by omega)]

/-- A player after the settings that SET PLAYER selects. -/
def playerSettings (s : State) (j : PlayerIx) (sl a tick m : Byte) (trigger : Option CellIx) : Player :=
  { s.players[j] with
    start := if sl.getLsbD 0 then a else s.players[j].start
    tick := if sl.getLsbD 1 then max 1 tick.toNat else s.players[j].tick
    mode := playModeStored s j sl m
    trigger := trigger
    triggerOut := triggerOutAfter s s.players[j].trigger trigger s.players[j].triggerOut }

/-- One player stored. -/
def putPlayer (j : PlayerIx) (x : Player) (s : State) : State := { s with players := s.players.set j x }

@[simp] theorem putPlayer_player (j : PlayerIx) (x : Player) (s : State) : (putPlayer j x s).players[j] = x := set_get_self ..

theorem putPlayer_sameBut (j : PlayerIx) (x : Player) (s : State) : SameBut j s.players (putPlayer j x s).players :=
  sameBut_set _ _ _

/-- A payload of SET PLAYER that passes its checks. -/
theorem setPlayer_named (hmode : sl.getLsbD 2 = true → m.toNat < 2) (htrig : sl.getLsbD 3 = true → trig.toNat ≤ 8) :
    ∃ (trigger : Option CellIx) (x : Player),
      (∀ c : CellIx, trigger = some c ↔ if sl.getLsbD 3 then trig.toNat = c.val else s.players[j].trigger = some c) ∧
      x = playerSettings s j sl a tick m trigger ∧
      setPlayer q tag [byte j.val, sh, sl, a, tick, m, trig] s =
        if s.ports[q].role = .engineering then
          reply q tag (if sl.getLsbD 1 ∧ tick = 0 then .adjusted else .ok) (playerEntry (putPlayer j x s) j) (putPlayer j x s)
        else reply q tag .notAllowed (playerEntry s j) s := by
  obtain ⟨trigger, htrigger, hcell⟩ := checked_trigger (sl.getLsbD 3) s.players[j].trigger htrig
  have hplayer : fin? 4 (byte j.val).toNat = some j := fin_some j (byte_toNat (by omega))
  have hadjusted := okOr_eq (store (sl.getLsbD 1) (max 1 tick.toNat, decide (tick = 0)) s.players[j].tick).2
    (sl.getLsbD 1 ∧ tick = 0) ((store_adjusted ..).trans (and_congr_right' decide_eq_true_iff))
  refine ⟨trigger, _, hcell, rfl, ?_⟩
  simp only [setPlayer, hplayer, selected_lt sh sl 0 (by omega), selected_lt sh sl 1 (by omega), selected_lt sh sl 2 (by omega),
    selected_lt sh sl 3 (by omega), checked_playMode hmode, htrigger, clamp_tick, hadjusted, store_value]
  rfl

/-! ## SET TONE ROUTE (R148) -/

/-- The route of a state code: the six connected states have one. -/
def routeOf (st : Byte) : Option (Fin 6) :=
  match st.toNat with
  | 2 => some 0 | 3 => some 1 | 4 => some 2 | 9 => some 3 | 5 => some 4 | 6 => some 5 | _ => none

theorem ofCode_routeIx (st : Byte) : (PState.ofCode st).bind routeIx = routeOf st := by
  unfold PState.ofCode routeOf
  generalize st.toNat = n
  match n with
  | 0 | 1 | 2 | 3 | 4 | 5 | 6 | 7 | 8 | 9 => rfl
  | n + 10 => rfl

/-- A route after the settings that SET TONE ROUTE selects. -/
def routeSettings (s : State) (r : Fin 6) (sl set gain : Byte) : Route :=
  { players := if sl.getLsbD 0 then maskOf 4 set.toNat else s.routes[r].players
    gain := if sl.getLsbD 1 then if gain.toNat ≤ 192 then gain else 255 else s.routes[r].gain }

/-- One route stored. -/
def putRoute (r : Fin 6) (x : Route) (s : State) : State := { s with routes := s.routes.set r x }

@[simp] theorem putRoute_route (r : Fin 6) (x : Route) (s : State) : (putRoute r x s).routes[r] = x := set_get_self ..

theorem putRoute_sameBut (r : Fin 6) (x : Route) (s : State) : SameBut r s.routes (putRoute r x s).routes := sameBut_set _ _ _

/-- A SET TONE ROUTE of a state with a route. -/
theorem setToneRoute_named {r : Fin 6} (hroute : routeOf st = some r) :
    ∃ x, x = routeSettings s r sl set gain ∧
      setToneRoute q tag [st, sh, sl, set, gain] s =
        if s.ports[q].role = .engineering then
          reply q tag (if sl.getLsbD 0 ∧ 16 ≤ set.toNat then .adjusted else .ok) [st, byte (maskNat x.players), x.gain]
            (putRoute r x s)
        else reply q tag .notAllowed [st, byte (maskNat s.routes[r].players), s.routes[r].gain] s := by
  have hadjusted := okOr_eq (store (sl.getLsbD 0) (playersStored set) s.routes[r].players).2
    (sl.getLsbD 0 ∧ 16 ≤ set.toNat) ((store_adjusted ..).trans (and_congr_right' decide_eq_true_iff))
  refine ⟨_, rfl, ?_⟩
  simp only [setToneRoute, ofCode_routeIx, hroute, selected_lt sh sl 0 (by omega), selected_lt sh sl 1 (by omega), hadjusted,
    store_value, set_get_self]
  rfl

/-- The players of a stored route: bit n of the set sent is player n. -/
theorem routeSettings_player (r : Fin 6) (j : PlayerIx) :
    (routeSettings s r sl set gain).players[j] = if sl.getLsbD 0 then set.getLsbD j.val else s.routes[r].players[j] := by
  unfold routeSettings
  dsimp only
  split
  · exact ofFn_get _ j
  · rfl

theorem setToneRoute_noRoute (hroute : routeOf st = none) :
    setToneRoute q tag [st, sh, sl, set, gain] s = reply q tag .illegal [] s := by
  simp only [setToneRoute, ofCode_routeIx, hroute]

end Sys2Proof.Machine
end

section
/-! OBLIGATIONS. SET PLAYER and SET TONE ROUTE. -/

namespace Sys2Proof.Machine

/-- Settles O43: the player and the route stored, setting by setting. -/
theorem playerAndRouteSettingsAreStored : Obligations.PlayerAndRouteSettingsAreStored := by
  unfold Obligations.PlayerAndRouteSettingsAreStored
  refine ⟨fun s q tag j sh sl a tick m trig hr hmode htrig => ⟨_, live_of_released _ hr, ?player⟩,
    fun s q tag st sh sl set gain hr => ⟨_, live_of_released _ hr, ?route⟩⟩
  case player =>
    obtain ⟨trigger, x, hcell, hx, hset⟩ := setPlayer_named (s := s) (q := q) (tag := tag) (j := j) (sh := sh) (a := a)
      (tick := tick) hmode htrig
    rw [hset]
    by_cases hrole : s.ports[q].role = .engineering
    · rw [if_pos hrole, if_pos hrole, reply_players, putPlayer_player, hx]
      exact ⟨rfl, putPlayer_sameBut j _ s, rfl, hcell, replied_of_ports rfl⟩
    · rw [if_neg hrole, if_neg hrole]
      exact ⟨rfl, replied_self ..⟩
  case route =>
    intro route
    have hroute : routeOf st = route := rfl
    clear_value route
    cases route with
    | none =>
      rw [setToneRoute_noRoute hroute]
      exact ⟨rfl, replied_self ..⟩
    | some r =>
      obtain ⟨x, hx, hset⟩ := setToneRoute_named (s := s) (q := q) (tag := tag) (sh := sh) (sl := sl) (set := set) (gain := gain)
        hroute
      rw [hset]
      dsimp only
      by_cases hrole : s.ports[q].role = .engineering
      · rw [if_pos hrole, if_pos hrole, reply_routes, putRoute_route, hx]
        exact ⟨rfl, putRoute_sameBut r _ s, routeSettings_player r, rfl, replied_of_ports rfl⟩
      · rw [if_neg hrole, if_neg hrole]
        exact ⟨rfl, replied_self ..⟩

end Sys2Proof.Machine
end

section
/-! SUPPORT. The commands of one player (R143 to R146): how a payload that names a player is answered. -/

namespace Sys2Proof.Machine

variable {s : State} {q : PortIx} {tag : Byte} {j : PlayerIx} {f : Player → Player × Result}

theorem playerCommand_named (f : Player → Player × Result) :
    playerCommand f q tag [byte j.val] s =
      reply q tag (f s.players[j]).2 (playerEntry (putPlayer j (f s.players[j]).1 s) j) (putPlayer j (f s.players[j]).1 s) := by
  have hplayer : fin? 4 (byte j.val).toNat = some j := fin_some j (byte_toNat (by omega))
  simp only [playerCommand, hplayer]
  rfl

theorem playerCommand_noPlayer (f : Player → Player × Result) {n : Byte} (h : 4 ≤ n.toNat) :
    playerCommand f q tag [n] s = reply q tag .illegal [] s := by
  have hnone : fin? 4 n.toNat = none := dif_neg (by omega)
  simp only [playerCommand, hnone]

/-- A command of one player that the player takes as a table gives it. -/
theorem playerCommand_answers {c : PortIx → Byte → List Byte → Instr} {table : Player → Player × Result}
    (hexec : ∀ q tag pl s, exec (c q tag pl) s = live s (playerCommand f q tag pl s)) (htable : ∀ x, table x = f x)
    (s : State) (q : PortIx) (tag : Byte) (j : PlayerIx) (hr : s.inReset = false) :
    (∃ t, exec (c q tag [byte j.val]) s = .next t ∧ t = { s with players := t.players, ports := t.ports } ∧
      SameBut j s.players t.players ∧ t.players[j] = (table s.players[j]).1 ∧
      Replied q tag (table s.players[j]).2 (playerEntry t j) 0 s t) ∧
    ∀ n : Byte, 4 ≤ n.toNat → ∃ t, exec (c q tag [n]) s = .next t ∧ t = { s with ports := t.ports } ∧
      Replied q tag .illegal [] 0 s t := by
  rw [htable]
  refine ⟨⟨_, (hexec ..).trans (live_of_released _ hr), ?_⟩, fun n hn => ⟨_, (hexec ..).trans (live_of_released _ hr), ?_⟩⟩
  · rw [playerCommand_named]
    exact ⟨rfl, putPlayer_sameBut j _ s, putPlayer_player .., replied_of_ports rfl⟩
  · rw [playerCommand_noPlayer f hn]
    exact ⟨rfl, replied_self ..⟩

theorem playerTrigger_selected {c : CellIx} (out : Bool) (h : s.players[j].trigger = some c) :
    playerTrigger j c out s = putPlayer j (triggeredPlayer out s.players[j]) s := if_pos h

theorem playerTrigger_other {c : CellIx} (out : Bool) (h : s.players[j].trigger ≠ some c) :
    playerTrigger j c out s = s := if_neg h

end Sys2Proof.Machine
end

section
/-! OBLIGATIONS. START, STOP, ABORT and the trigger of a player. -/

namespace Sys2Proof.Machine

/-- Settles O44: the three tables are those of the player's operations, which the commands and the trigger make. -/
theorem playersStartStopAndAbort : Obligations.PlayersStartStopAndAbort := by
  unfold Obligations.PlayersStartStopAndAbort
  intro started stopped aborted
  have hstarted (x : Player) : started x = startPlayer x := by
    dsimp only [started]
    cases hst : x.state with
    | idle => rw [startPlayer_idle hst]
    | playing => rw [startPlayer_playing hst]
    | stopping => rw [startPlayer_stopping hst]
  have hstopped (x : Player) : stopped x = stopPlayer x := stopPlayer_eq.symm
  have haborted (x : Player) : aborted x = abortPlayer x := abortPlayer_eq.symm
  refine ⟨?commands, fun s j c out hr => ⟨_, live_of_released _ hr, ?trigger⟩⟩
  case commands =>
    rw [List.forall_mem_cons, List.forall_mem_cons, List.forall_mem_singleton]
    exact ⟨playerCommand_answers (fun _ _ _ _ => rfl) hstarted, playerCommand_answers (fun _ _ _ _ => rfl) hstopped,
      playerCommand_answers (fun _ _ _ _ => rfl) haborted⟩
  case trigger =>
    by_cases hc : s.players[j].trigger = some c
    · rw [if_pos hc, playerTrigger_selected out (s := took (.playerTrigger j c out) s) hc]
      refine ⟨rfl, putPlayer_sameBut j _ (took (.playerTrigger j c out) s), ?_⟩
      rw [putPlayer_player, took_players, triggeredPlayer_eq, ← hstarted, ← hstopped]
    · rw [if_neg hc, playerTrigger_other out (s := took (.playerTrigger j c out) s) hc]
      rfl

end Sys2Proof.Machine
end

section
/-! SUPPORT. The period start of a player (R142, R145, R150), case by case. -/

namespace Sys2Proof.Machine

variable {x : Player} {m : Vector Step 256}

/-- The abort after a period start that leaves the player busy: a requested one begins its fade (R145). -/
def abortTaken (x : Player) : AbortState := if x.abort = .requested then .fading else x.abort

theorem takeAbort_busy (h : x.state ≠ .idle) : takeAbort x = { x with abort := abortTaken x } := by
  unfold takeAbort abortTaken
  by_cases hreq : x.abort = .requested
  · rw [if_pos ⟨h, hreq⟩, if_pos hreq]
  · rw [if_neg fun hb => hreq hb.2, if_neg hreq]

/-- A play that ended has no abort to take. -/
theorem takeAbort_ended : takeAbort (endPlay x) = endPlay x := if_neg fun h => h.1 rfl

/-- A busy player at the start of the step at an address. -/
def stepBegun (m : Vector Step 256) (a : Byte) (x : Player) : Player := { beginStep m a x with abort := abortTaken x }

theorem takeAbort_began (h : x.state ≠ .idle) (a : Byte) : takeAbort (beginStep m a x) = stepBegun m a x := takeAbort_busy h

/-- A complete step ends the play, or goes back to the latched start or on to the next address (R142). -/
theorem takeAbort_completed (h : x.state ≠ .idle) :
    takeAbort (completeStep m x) =
      if x.state = .stopping ∨ (x.current.last = true ∧ x.mode = .oneshot) then endPlay x
      else if x.current.last = true then stepBegun m x.latchedStart x
      else stepBegun m (x.stepAddr + 1) x := by
  unfold completeStep
  by_cases hstop : x.state = .stopping
  · rw [if_pos hstop, if_pos (.inl hstop), takeAbort_ended]
  · rw [if_neg hstop]
    by_cases hlast : x.current.last = true
    · rw [if_pos hlast]
      cases hmode : x.mode with
      | oneshot => rw [if_pos (.inr ⟨hlast, rfl⟩)]; exact takeAbort_ended
      | continuous => rw [if_neg (by simp [hstop]), if_pos hlast]; exact takeAbort_began h _
    · rw [if_neg hlast, if_neg (by simp [hstop, hlast]), if_neg hlast]
      exact takeAbort_began h _

/-- The period-start event of a player, its cases in order (R142, R145). -/
theorem periodPlayer_eq :
    periodPlayer m x =
      if x.state = .idle then x
      else if x.abort = .fading then endPlay x
      else if x.stepPending then if x.state = .stopping then endPlay x else stepBegun m x.latchedStart x
      else if 1 < x.remaining then { x with remaining := x.remaining - 1, abort := abortTaken x }
      else if x.state = .stopping ∨ (x.current.last = true ∧ x.mode = .oneshot) then endPlay x
      else if x.current.last = true then stepBegun m x.latchedStart x
      else stepBegun m (x.stepAddr + 1) x := by
  unfold periodPlayer stepProgress
  by_cases hidle : x.state = .idle
  · rw [if_pos hidle, if_pos hidle]
  · rw [if_neg hidle, if_neg hidle]
    congr 1
    by_cases hpending : x.stepPending = true
    · rw [if_pos hpending, if_pos hpending, apply_ite takeAbort, takeAbort_ended, takeAbort_began hidle]
    · rw [if_neg hpending, if_neg hpending]
      by_cases hrem : x.remaining ≤ 1
      · rw [if_pos hrem, if_neg (Nat.not_lt.2 hrem), takeAbort_completed hidle]
      · rw [if_neg hrem, if_pos (Nat.lt_of_not_le hrem)]
        exact takeAbort_busy hidle

/-- TONE is raised where a busy player goes IDLE (R150). -/
theorem wentIdle_eq (a b : PlayerState) : (a != .idle && b == .idle) = decide (a ≠ .idle ∧ b = .idle) := by
  rw [Bool.decide_and]
  cases a <;> cases b <;> rfl

theorem playerPeriod_players (j : PlayerIx) (s : State) :
    (playerPeriod j s).players = s.players.set j (periodPlayer s.steps s.players[j]) := raiseIf_players ..

theorem playerPeriod_raised (j : PlayerIx) (s : State) :
    Raised (flagIf (decide (s.players[j].state ≠ .idle ∧ (playerPeriod j s).players[j].state = .idle)) .tone) s
      (playerPeriod j s) := by
  rw [playerPeriod_players, set_get_self, ← wentIdle_eq]
  exact raised_of_ports (playerPeriod_ports j s)

theorem stepDue_iff :
    stepDue x = true ↔ x.state ≠ .idle ∧ x.abort ≠ .fading ∧ x.stepPending = false ∧ x.remaining ≤ 1 := by
  simp [stepDue, and_assoc]

theorem fadeDue_iff : fadeDue x = true ↔ x.state ≠ .idle ∧ x.abort = .fading := by simp [fadeDue]

/-- A row that is a case of the period start makes the whole event where its case holds, and leaves the state elsewhere
(log 10). -/
theorem playerCase {s : State} {j : PlayerIx} {b : Bool} {Holds : Prop} [Decidable Holds]
    (hperiod : exec (.playerPeriodStart j) s = .next (playerPeriod j s)) (h : b = true ↔ Holds) :
    if Holds then exec (.playerPeriodStart j) s = .next (if b then playerPeriod j s else s)
    else (if b then playerPeriod j s else s) = s := by
  by_cases hholds : Holds
  · rw [if_pos hholds, if_pos (h.2 hholds), hperiod]
  · rw [if_neg hholds, if_neg (mt h.1 hholds)]

end Sys2Proof.Machine
end

section
/-! OBLIGATIONS. The period start of a player. -/

namespace Sys2Proof.Machine

/-- Settles O45: the cases of a period start, which the two case rows make where they hold. -/
theorem playerPeriodStartMakesStepProgress : Obligations.PlayerPeriodStartMakesStepProgress := by
  unfold Obligations.PlayerPeriodStartMakesStepProgress
  intro s j hr
  have hperiod : exec (.playerPeriodStart j) s = .next (playerPeriod j s) := live_of_released _ hr
  refine ⟨⟨_, hperiod, playerPeriod_changes s j, ?_, ?_, playerPeriod_raised j s⟩,
    ⟨_, live_of_released _ hr, playerCase hperiod stepDue_iff⟩, ⟨_, live_of_released _ hr, playerCase hperiod fadeDue_iff⟩⟩
  · rw [playerPeriod_players]
    exact sameBut_set _ _ _
  · rw [playerPeriod_players, set_get_self, periodPlayer_eq]
    rfl

end Sys2Proof.Machine
end

section
/-! SUPPORT. The waveform of a player (R147): the triangle at the level of a step. -/

namespace Sys2Proof.Machine

variable {x : Player}

/-- A level halves a multiple of 256 up to three times, and rounding leaves it exact. -/
theorem rnd_level (k : Int) (l : Fin 4) : rnd (k * 256 * levelCoef l) * 2 ^ l.val = k * 256 := by
  have hexact (c d : Int) (h : 256 * levelCoef l = c * 16384) (hd : c * 2 ^ l.val = d) :
      rnd (k * 256 * levelCoef l) * 2 ^ l.val = k * d := by
    rw [mul_assoc k, h, ← mul_assoc k, rnd_mul, mul_assoc k, hd]
  revert hexact
  match l with
  | 0 => exact fun hexact => hexact 256 256 rfl rfl
  | 1 => exact fun hexact => hexact 128 256 rfl rfl
  | 2 => exact fun hexact => hexact 64 256 rfl rfl
  | 3 => exact fun hexact => hexact 32 256 rfl rfl

theorem toneSample_rest (h : x.current.pitch = 0) : toneSample x = 0 := if_pos h

/-- The tone sample is exactly the triangle at the level of its step. -/
theorem toneSample_triangle (h : x.current.pitch ≠ 0) : toneSample x * 2 ^ x.current.level.val = triangle x.phase := by
  unfold toneSample
  rw [if_neg h]
  exact rnd_level _ _

/-- The peak of the triangle is 32767 x 256. -/
theorem triangle_peak (phase : BitVec 16) : |triangle phase| ≤ 8388352 := by
  have hlt := phase.isLt
  rw [abs_le]
  unfold triangle
  dsimp only
  split <;> omega

theorem toneSample_peak (x : Player) : |toneSample x| * 2 ^ x.current.level.val ≤ 8388352 := by
  by_cases h : x.current.pitch = 0
  · rw [toneSample_rest h]
    simp
  · have hpow : |(2 : Int) ^ x.current.level.val| = 2 ^ x.current.level.val := abs_of_nonneg (by positivity)
    calc |toneSample x| * 2 ^ x.current.level.val
        = |toneSample x * 2 ^ x.current.level.val| := by rw [abs_mul, hpow]
      _ = |triangle x.phase| := by rw [toneSample_triangle h]
      _ ≤ 8388352 := triangle_peak _

/-- A player outside a step is silent. -/
theorem playerOut_eq (x : Player) (i : FrameIx) :
    playerOut x i =
      if x.state = .idle ∨ x.stepPending = true then 0
      else if x.abort = .fading then rnd (toneSample x * fadeOut i) else toneSample x := by
  have hin : inStep x = true ↔ ¬ (x.state = .idle ∨ x.stepPending = true) := by simp [inStep]
  unfold playerOut
  by_cases h : x.state = .idle ∨ x.stepPending = true
  · rw [if_pos h, if_neg fun hi => hin.1 hi h]
  · rw [if_neg h, if_pos (hin.2 h)]

end Sys2Proof.Machine
end

section
/-! OBLIGATIONS. The waveform of a player. -/

namespace Sys2Proof.Machine

/-- Settles O46: a frame advances the phases, and the level divides the triangle exactly. -/
theorem tonesFollowTheirTriangle : Obligations.TonesFollowTheirTriangle := by
  unfold Obligations.TonesFollowTheirTriangle
  refine ⟨fun s x j hr => ⟨_, live_of_released _ hr, ?_⟩,
    fun x i => ⟨toneSample_rest, fun h => toneSample_triangle h, toneSample_peak x, playerOut_eq x i⟩⟩
  rw [fc_players, ofFn_get, advancePhase_eq]

end Sys2Proof.Machine
end

section
/-! SUPPORT. SET METERING (R156): the metering context stored, setting by setting, and the valid flags. -/

namespace Sys2Proof.Machine

variable {s : State} {q : PortIx} {tag : Byte} {sh sl m w r : Byte}

/-- The metering mode as SET METERING leaves it. -/
def meterModeStored (s : State) (sl m : Byte) : MeterMode :=
  if sl.getLsbD 0 then if m = 0 then .off else if m = 1 then .continuous else .periodic else s.meter.mode

/-- A selected mode code of 0 to 2 passes its check. -/
theorem checked_meterMode (h : sl.getLsbD 0 = true → m.toNat < 3) :
    checked (sl.getLsbD 0) (meterModeOf m) s.meter.mode = some (meterModeStored s sl m) := by
  unfold meterModeStored
  cases hsel : sl.getLsbD 0 with
  | false => rfl
  | true =>
    have hcode : m = 0 ∨ m = 1 ∨ m = 2 := by have := h hsel; bv_omega
    rcases hcode with rfl | rfl | rfl <;> rfl

/-- A byte is at most 255, so that only a repeat of 0 or 1 is brought into range. -/
theorem clamp_repeats (r : Byte) : clamp 2 255 r.toNat = (max 2 r.toNat, decide (r.toNat < 2)) := by
  have hlow : r.toNat < 2 ∨ 255 < r.toNat ↔ r.toNat < 2 := by omega
  unfold clamp
  rw [decide_eq_decide.2 hlow, min_eq_right (by omega)]

/-- The metering context after the settings that SET METERING selects. -/
def meterSettings (s : State) (sl m w r : Byte) : Meter :=
  { s.meter with
    mode := meterModeStored s sl m
    window := if sl.getLsbD 1 then max 6 (min 12 w.toNat) else s.meter.window
    repeats := if sl.getLsbD 2 then max 2 r.toNat else s.meter.repeats }

/-- The metering context stored; a start from OFF clears every valid flag. -/
def putMetering (x : Meter) (s : State) : State :=
  { s with
    meter := x
    points := Vector.ofFn fun n : PointIx => { s.points[n] with
      valid := s.points[n].valid && !decide (s.meter.mode = .off ∧ x.mode ≠ .off) } }

theorem putMetering_point (x : Meter) (s : State) (n : PointIx) :
    (putMetering x s).points[n] = { s.points[n] with
      valid := s.points[n].valid && !decide (s.meter.mode = .off ∧ x.mode ≠ .off) } := ofFn_get _ n

/-- Metering is started from OFF, in both spellings. -/
theorem starts_eq (a b : MeterMode) : (a == .off && b != .off) = decide (a = .off ∧ b ≠ .off) := by
  rw [Bool.decide_and]
  cases a <;> cases b <;> rfl

theorem meterBody_reply (res : Result) (body : List Byte) (s : State) : meterBody (reply q tag res body s) = meterBody s := by
  unfold meterBody
  rw [reply_meter]

/-- A payload of SET METERING that passes its check. -/
theorem setMetering_named (hmode : sl.getLsbD 0 = true → m.toNat < 3) :
    setMetering q tag [sh, sl, m, w, r] s =
      if s.ports[q].role = .engineering then
        reply q tag
          (if (sl.getLsbD 1 ∧ (w.toNat < 6 ∨ 12 < w.toNat)) ∨ (sl.getLsbD 2 ∧ r.toNat < 2) then .adjusted else .ok)
          (meterBody (putMetering (meterSettings s sl m w r) s)) (putMetering (meterSettings s sl m w r) s)
      else reply q tag .notAllowed (meterBody s) s := by
  have hadjusted := okOr_eq
    ((store (sl.getLsbD 1) (clamp 6 12 w.toNat) s.meter.window).2 ||
      (store (sl.getLsbD 2) (max 2 r.toNat, decide (r.toNat < 2)) s.meter.repeats).2)
    ((sl.getLsbD 1 ∧ (w.toNat < 6 ∨ 12 < w.toNat)) ∨ (sl.getLsbD 2 ∧ r.toNat < 2))
    (by simp only [Bool.or_eq_true, store_adjusted, clamp, decide_eq_true_iff])
  simp only [setMetering, selected_lt sh sl 0 (by omega), selected_lt sh sl 1 (by omega), selected_lt sh sl 2 (by omega),
    checked_meterMode hmode, clamp_repeats, hadjusted, store_value, starts_eq]
  rfl

end Sys2Proof.Machine
end

section
/-! SUPPORT. CLEAR CLIPS (R159): the flags cleared, and the flags as the reply gives them. -/

namespace Sys2Proof.Machine

variable {s : State} {q : PortIx} {tag : Byte} {first n : Byte}

/-! ## The flags cleared -/

/-- The clip flags of a run of points cleared. -/
def clipsCleared (first n : Byte) (s : State) : State :=
  { s with
    points := Vector.ofFn fun j : PointIx =>
      if first.toNat ≤ j.val ∧ j.val < first.toNat + n.toNat then { s.points[j] with clip := false } else s.points[j] }

theorem clipsCleared_point (first n : Byte) (s : State) (j : PointIx) :
    (clipsCleared first n s).points[j] = { s.points[j] with
      clip := s.points[j].clip && !decide (first.toNat ≤ j.val ∧ j.val < first.toNat + n.toNat) } := by
  unfold clipsCleared
  rw [ofFn_get]
  by_cases hrun : first.toNat ≤ j.val ∧ j.val < first.toNat + n.toNat
  · rw [if_pos hrun, decide_eq_true hrun, Bool.not_true, Bool.and_false]
  · rw [if_neg hrun, decide_eq_false hrun, Bool.not_false, Bool.and_true]

theorem clipsCleared_ports (first n : Byte) (s : State) : (clipsCleared first n s).ports = s.ports := by
  simp only [clipsCleared]

/-- The SCREENER alone has no right to clear clip flags. -/
theorem clipRole_iff (role : Role) : clipRole role = true ↔ ¬ role = .screener := by
  cases role <;> simp [clipRole]

/-- A run of points that CLEAR CLIPS names. -/
theorem clearClips_named (hfirst : first.toNat ≤ 70) (hsome : 1 ≤ n.toNat) (hend : first.toNat + n.toNat ≤ 71) :
    clearClips q tag [first, n] s =
      if s.ports[q].role = .screener then reply q tag .notAllowed (clipBody s) s
      else reply q tag .ok (clipBody (clipsCleared first n s)) (clipsCleared first n s) := by
  have hrun : first.toNat ≤ 70 ∧ 1 ≤ n.toNat ∧ n.toNat ≤ 71 ∧ first.toNat + n.toNat ≤ 71 := ⟨hfirst, hsome, by omega, hend⟩
  simp only [clearClips, if_pos hrun, clipRole_iff, ite_not]
  rfl

/-! ## The flags of a reply (R200) -/

/-- The clip flag of a number, false from 71. -/
def clipAt (s : State) (i : Nat) : Bool := if h : i < 71 then (s.points[i]'h).clip else false

/-- What flag i gives to byte b of the reply: its power of 2 where it stands in that byte. -/
def clipTerm (s : State) (b i : Nat) : Nat := if i / 8 = b ∧ clipAt s i then 2 ^ (i % 8) else 0

theorem clipTerm_block (s : State) (b c : Fin 9) (k : Fin 8) :
    clipTerm s b.val (k.val + 8 * c.val) = if c = b then if clipAt s (8 * b.val + k.val) then 2 ^ k.val else 0 else 0 := by
  have hdiv : (k.val + 8 * c.val) / 8 = c.val := by omega
  have hmod : (k.val + 8 * c.val) % 8 = k.val := by omega
  unfold clipTerm
  rw [hdiv, hmod, ite_and]
  by_cases hc : c = b
  · rw [if_pos (congrArg Fin.val hc), if_pos hc, hc, Nat.add_comm]
  · rw [if_neg (fun h => hc (Fin.ext h)), if_neg hc]

/-- A sum over m blocks of n numbers. -/
theorem sum_blocks (f : Nat → Nat) (m n : Nat) :
    ∑ i : Fin (m * n), f i.val = ∑ c : Fin m, ∑ k : Fin n, f (k.val + n * c.val) := by
  rw [← Equiv.sum_comp finProdFinEquiv, Fintype.sum_prod_type]
  rfl

/-- The sum over the points: flag 71, which no point has, gives nothing. -/
theorem clipTerm_points (s : State) (b : Nat) :
    ((List.finRange 71).map fun n => if n.val / 8 = b ∧ s.points[n].clip then 2 ^ (n.val % 8) else 0).sum =
      ∑ i : Fin (9 * 8), clipTerm s b i.val := by
  have hlast : clipTerm s b 71 = 0 := by simp [clipTerm, clipAt]
  have hpoint (n : Fin 71) :
      (if n.val / 8 = b ∧ s.points[n].clip then 2 ^ (n.val % 8) else 0) = clipTerm s b n.val := by
    unfold clipTerm clipAt
    rw [dif_pos n.isLt]
    rfl
  have hsum : ∑ i : Fin 72, clipTerm s b i.val = (∑ n : Fin 71, clipTerm s b n.val) + clipTerm s b 71 :=
    Fin.sum_univ_castSucc fun i : Fin 72 => clipTerm s b i.val
  rw [hlast, Nat.add_zero] at hsum
  rw [← Fin.sum_univ_def]
  exact (Finset.sum_congr rfl fun n _ => hpoint n).trans hsum.symm

/-- Byte b of the reply carries the set of the flags 8 b to 8 b + 7. -/
theorem clip_sum (s : State) (b : Fin 9) :
    ((List.finRange 71).map fun n => if n.val / 8 = b.val ∧ s.points[n].clip then 2 ^ (n.val % 8) else 0).sum =
      maskNat (Vector.ofFn fun k : Fin 8 => clipAt s (8 * b.val + k.val)) := by
  have hothers : ∀ c ∈ Finset.univ, c ≠ b → (∑ k : Fin 8, clipTerm s b.val (k.val + 8 * c.val)) = 0 :=
    fun c _ hc => Finset.sum_eq_zero fun k _ => by rw [clipTerm_block, if_neg hc]
  rw [clipTerm_points, sum_blocks, Finset.sum_eq_single b hothers fun hb => absurd (Finset.mem_univ b) hb, maskNat,
    ← Fin.sum_univ_def]
  refine Finset.sum_congr rfl fun k _ => ?_
  rw [clipTerm_block, if_pos rfl, ofFn_get]

theorem clipBody_reply (res : Result) (body : List Byte) (s : State) : clipBody (reply q tag res body s) = clipBody s := by
  unfold clipBody
  rw [reply_points]

/-- Flag i stands in bit i mod 8 of byte i div 8. -/
theorem clipBody_bit (s : State) (i : Fin 72) : ((clipBody s).getD (i.val / 8) 0).getLsbD (i.val % 8) = clipAt s i.val := by
  have hb : i.val / 8 < 9 := by omega
  have hk : i.val % 8 < 8 := Nat.mod_lt _ (by omega)
  have hbyte : (clipBody s).getD (i.val / 8) 0 =
      byte (maskNat (Vector.ofFn fun k : Fin 8 => clipAt s (8 * (i.val / 8) + k.val))) := by
    rw [← clip_sum s ⟨i.val / 8, hb⟩]
    simp [clipBody, hb]
  have hbit := mask_testBit (Vector.ofFn fun k : Fin 8 => clipAt s (8 * (i.val / 8) + k.val)) ⟨i.val % 8, hk⟩
  rw [ofFn_get, Nat.div_add_mod] at hbit
  rw [hbyte, byte, BitVec.getLsbD_ofNat, hbit, decide_eq_true hk, Bool.true_and]

end Sys2Proof.Machine
end

section
/-! SUPPORT. SET SUPERVISOR (R162, R163): the supervisor stored, setting by setting, and its restart. -/

namespace Sys2Proof.Machine

variable {s : State} {q : PortIx} {tag : Byte} {i : SupIx} {x : Sup} {sh sl en pt m th k h : Byte}

/-! ## The settings (R162) -/

/-- The mode as SET SUPERVISOR leaves it. -/
def supModeStored (x : Sup) (sl m : Byte) : SupMode :=
  if sl.getLsbD 2 then if m = 0 then .silence else .overload else x.mode

/-- A selected mode code of 0 or 1 passes its check. -/
theorem checked_supMode (hmode : sl.getLsbD 2 = true → m.toNat < 2) :
    checked (sl.getLsbD 2) (supModeOf m) x.mode = some (supModeStored x sl m) := by
  unfold supModeStored
  cases hsel : sl.getLsbD 2 with
  | false => rfl
  | true =>
    have hcode : m = 0 ∨ m = 1 := by have := hmode hsel; bv_omega
    rcases hcode with rfl | rfl <;> rfl

/-- The threshold that SET SUPERVISOR brings into range. -/
def thresholdSent (x : Sup) (sl th : Byte) : Nat := if sl.getLsbD 3 then th.toNat else x.threshold

/-- The threshold as SET SUPERVISOR leaves it. -/
def thresholdStored (x : Sup) (sl m th : Byte) : Nat :=
  if supModeStored x sl m = .silence then min 14 (thresholdSent x sl th) else max 1 (min 15 (thresholdSent x sl th))

/-- The K that SET SUPERVISOR brings into range. -/
def countSent (x : Sup) (sl k : Byte) : Nat := if sl.getLsbD 4 then k.toNat else x.count

/-- The hysteresis that SET SUPERVISOR brings into range. -/
def hystSent (x : Sup) (sl h : Byte) : Nat := if sl.getLsbD 5 then h.toNat else x.hyst

theorem hystRoom_eq (mode : SupMode) (t : Nat) : hystRoom mode t = if mode = .silence then 15 - t else t := by
  cases mode <;> rfl

theorem thresholdIn_value (mode : SupMode) (t : Nat) :
    (thresholdIn mode t).1 = if mode = .silence then min 14 t else max 1 (min 15 t) := by
  cases mode with
  | silence => exact Nat.zero_max _
  | overload => rfl

theorem thresholdIn_adjusted (mode : SupMode) (t : Nat) :
    (thresholdIn mode t).2 = true ↔ if mode = .silence then 14 < t else t = 0 ∨ 15 < t := by
  cases mode <;> simp [thresholdIn, clamp]

/-- A supervisor after the settings that SET SUPERVISOR selects, all of it in range (R162). -/
def supSettings (x : Sup) (sl en pt m th k h : Byte) : Sup :=
  let threshold := thresholdStored x sl m th
  { x with
    enable := if sl.getLsbD 0 then decide (en ≠ 0) else x.enable
    point := if sl.getLsbD 1 then ⟨min 70 pt.toNat, by omega⟩ else x.point
    mode := supModeStored x sl m
    threshold := threshold
    count := max 1 (min 15 (countSent x sl k))
    hyst := min (if supModeStored x sl m = .silence then 15 - threshold else threshold) (max 1 (min 3 (hystSent x sl h))) }

theorem supStored_eq :
    (supStored x (selected sh sl) en pt (supModeStored x sl m) th k h).1 = supSettings x sl en pt m th k h := by
  simp only [supStored, selected_lt sh sl _ (by omega : 0 < 8), selected_lt sh sl _ (by omega : 1 < 8),
    selected_lt sh sl _ (by omega : 3 < 8), selected_lt sh sl _ (by omega : 4 < 8), selected_lt sh sl _ (by omega : 5 < 8),
    store_value, flagStored, flag_ne, hystIn, hystRoom_eq, thresholdIn_value]
  rfl

/-- A setting sent or kept is not within its range. -/
abbrev SupAdjusted (x : Sup) (sl en pt m th k h : Byte) : Prop :=
  (sl.getLsbD 0 ∧ 1 < en.toNat) ∨ (sl.getLsbD 1 ∧ 70 < pt.toNat) ∨
    (if supModeStored x sl m = .silence then 14 < thresholdSent x sl th
      else thresholdSent x sl th = 0 ∨ 15 < thresholdSent x sl th) ∨
    countSent x sl k = 0 ∨ 15 < countSent x sl k ∨ hystSent x sl h = 0 ∨ 3 < hystSent x sl h ∨
    (if supModeStored x sl m = .silence then 15 - thresholdStored x sl m th else thresholdStored x sl m th) <
      max 1 (min 3 (hystSent x sl h))

theorem supStored_adjusted :
    (supStored x (selected sh sl) en pt (supModeStored x sl m) th k h).2 = true ↔ SupAdjusted x sl en pt m th k h := by
  simp only [supStored, selected_lt sh sl _ (by omega : 0 < 8), selected_lt sh sl _ (by omega : 1 < 8),
    selected_lt sh sl _ (by omega : 3 < 8), selected_lt sh sl _ (by omega : 4 < 8), selected_lt sh sl _ (by omega : 5 < 8),
    Bool.or_eq_true, store_adjusted, thresholdIn_adjusted, thresholdIn_value, flagStored, pointStored, hystIn,
    hystRoom_eq, clamp, decide_eq_true_eq, Nat.lt_one_iff, or_assoc]
  rfl

/-! ## A restart (R163): no setting changes, the state and the run counter are cleared -/

/-- A supervisor restarts where a setting that it is evaluated by changes, or it is disabled (R163). -/
theorem supRestarts_iff (old new : Sup) :
    supRestarts old new = true ↔
      new.point ≠ old.point ∨ new.mode ≠ old.mode ∨ new.threshold ≠ old.threshold ∨ new.count ≠ old.count ∨
        (old.enable = true ∧ new.enable = false) := by
  simp only [supRestarts, Bool.or_eq_true, Bool.and_eq_true, Bool.not_eq_true', bne_iff_ne, ne_comm, or_assoc]

@[simp] theorem supRestarted_enable (old new : Sup) : (supRestarted old new).enable = new.enable := by
  unfold supRestarted; split <;> rfl
@[simp] theorem supRestarted_point (old new : Sup) : (supRestarted old new).point = new.point := by
  unfold supRestarted; split <;> rfl
@[simp] theorem supRestarted_mode (old new : Sup) : (supRestarted old new).mode = new.mode := by
  unfold supRestarted; split <;> rfl
@[simp] theorem supRestarted_threshold (old new : Sup) : (supRestarted old new).threshold = new.threshold := by
  unfold supRestarted; split <;> rfl
@[simp] theorem supRestarted_count (old new : Sup) : (supRestarted old new).count = new.count := by
  unfold supRestarted; split <;> rfl
@[simp] theorem supRestarted_hyst (old new : Sup) : (supRestarted old new).hyst = new.hyst := by
  unfold supRestarted; split <;> rfl

theorem supRestarted_cleared {old new : Sup} (h : supRestarts old new = true) :
    (supRestarted old new).alarm = false ∧ (supRestarted old new).run = 0 := by
  rw [supRestarted, if_pos h]
  exact ⟨rfl, rfl⟩

theorem supRestarted_kept {old new : Sup} (h : ¬ supRestarts old new = true) : supRestarted old new = new := if_neg h

/-- SUPERVISE is raised where a restart ends an ALARM. -/
theorem alarmEnded_eq {old new : Sup} (h : new.alarm = old.alarm) :
    (old.alarm && supRestarts old new) = (old.alarm && !(supRestarted old new).alarm) := by
  by_cases hr : supRestarts old new = true
  · rw [hr, (supRestarted_cleared hr).1]; rfl
  · rw [supRestarted_kept hr, h, Bool.eq_false_iff.2 hr, Bool.and_false, Bool.and_not_self]

/-! ## The command -/

/-- One supervisor stored, and SUPERVISE where its restart ends an ALARM. -/
def putSup (i : SupIx) (new : Sup) (s : State) : State :=
  raiseIf (s.sups[i].alarm && supRestarts s.sups[i] new) .supervise { s with sups := s.sups.set i (supRestarted s.sups[i] new) }

theorem supEntry_reply (res : Result) (body : List Byte) (s : State) : supEntry (reply q tag res body s) = supEntry s := by
  unfold supEntry
  simp only [reply_sups]

theorem putSup_sups (i : SupIx) (new : Sup) (s : State) :
    (putSup i new s).sups = s.sups.set i (supRestarted s.sups[i] new) := raiseIf_sups ..

theorem putSup_replied {res : Result} {body : List Byte} {new : Sup} (h : new.alarm = s.sups[i].alarm) :
    Replied q tag res body (flagIf (s.sups[i].alarm && !(supRestarted s.sups[i] new).alarm) .supervise) s
      (reply q tag res body (putSup i new s)) :=
  replied_of_raised fun j => by rw [putSup, raiseIf_ports, alarmEnded_eq h]

/-- A payload of SET SUPERVISOR that passes its checks. -/
theorem setSupervisor_named (hmode : sl.getLsbD 2 = true → m.toNat < 2) :
    ∃ new, new = supSettings s.sups[i] sl en pt m th k h ∧
      setSupervisor q tag [byte i.val, sh, sl, en, pt, m, th, k, h] s =
        if s.ports[q].role = .engineering then
          reply q tag (if SupAdjusted s.sups[i] sl en pt m th k h then .adjusted else .ok) (supEntry (putSup i new s) i)
            (putSup i new s)
        else reply q tag .notAllowed (supEntry s i) s := by
  have hsup : fin? 8 (byte i.val).toNat = some i := fin_some i (byte_toNat (by omega))
  refine ⟨_, supStored_eq (sh := sh), ?_⟩
  rw [← okOr_eq _ _ (supStored_adjusted (sh := sh))]
  simp only [setSupervisor, hsup, selected_lt sh sl 2 (by omega), checked_supMode hmode]
  rfl

end Sys2Proof.Machine
end

section
/-! OBLIGATIONS. SET METERING, CLEAR CLIPS and SET SUPERVISOR. -/

namespace Sys2Proof.Machine

/-- Settles O47: the metering context and the supervisor stored, setting by setting, and the flags point by point. -/
theorem meterCommandsStoreTheirSettings : Obligations.MeterCommandsStoreTheirSettings := by
  unfold Obligations.MeterCommandsStoreTheirSettings
  refine ⟨fun s q tag sh sl m w r hr hmode => ⟨_, live_of_released _ hr, ?metering⟩,
    fun s q tag first n hr hfirst hsome hend => ⟨_, live_of_released _ hr, ?clips⟩, fun s => ⟨len_clip s, clipBody_bit s⟩,
    fun s q tag i sh sl en pt m th k h hr hmode => ⟨_, live_of_released _ hr, ?supervisor⟩⟩
  case metering =>
    have hchanges := setMetering_changes q tag [sh, sl, m, w, r] s
    rw [setMetering_named hmode] at hchanges ⊢
    by_cases hrole : s.ports[q].role = .engineering
    · rw [if_pos hrole] at hchanges
      rw [if_pos hrole, if_pos hrole]
      refine ⟨hchanges, rfl, fun n => ?_, ?_⟩
      · rw [reply_points]
        exact putMetering_point _ s n
      · rw [meterBody_reply]
        exact replied_of_ports rfl
    · rw [if_neg hrole, if_neg hrole]
      exact ⟨rfl, replied_self ..⟩
  case clips =>
    have hchanges := clearClips_changes q tag [first, n] s
    rw [clearClips_named hfirst hsome hend] at hchanges ⊢
    by_cases hrole : s.ports[q].role = .screener
    · rw [if_pos hrole, if_pos hrole]
      exact ⟨rfl, replied_self ..⟩
    · rw [if_neg hrole] at hchanges
      rw [if_neg hrole, if_neg hrole]
      refine ⟨hchanges, fun j => ?_, ?_⟩
      · rw [reply_points]
        exact clipsCleared_point first n s j
      · rw [clipBody_reply]
        exact replied_of_ports (clipsCleared_ports ..)
  case supervisor =>
    have hchanges := setSupervisor_changes q tag [byte i.val, sh, sl, en, pt, m, th, k, h] s
    obtain ⟨new, hnew, hset⟩ := setSupervisor_named (s := s) (q := q) (tag := tag) (i := i) (sh := sh) (en := en) (pt := pt)
      (th := th) (k := k) (h := h) hmode
    rw [hset] at hchanges ⊢
    by_cases hrole : s.ports[q].role = .engineering
    · rw [if_pos hrole] at hchanges
      rw [if_pos hrole, if_pos hrole, supEntry_reply]
      refine ⟨hchanges, ?_⟩
      rw [reply_sups, putSup_sups, set_get_self]
      simp only [supRestarted_enable, supRestarted_point, supRestarted_mode, supRestarted_threshold, supRestarted_count,
        supRestarted_hyst]
      have halarm : new.alarm = s.sups[i].alarm := by rw [hnew]; rfl
      have hrun : new.run = s.sups[i].run := by rw [hnew]; rfl
      refine ⟨sameBut_set _ _ _, ?enable, ?point, ?mode, ?threshold, ?count, ?hyst, fun hrestart => ?restarted,
        fun hstay => ?kept, ?replied⟩
      case restarted => exact supRestarted_cleared ((supRestarts_iff ..).2 hrestart)
      case kept =>
        rw [supRestarted_kept (mt (supRestarts_iff ..).1 hstay)]
        exact ⟨halarm, hrun⟩
      case replied =>
        rw [hnew] at halarm ⊢
        exact putSup_replied halarm
      all_goals rw [hnew]
      case point => exact apply_ite Fin.val ..
      all_goals rfl
    · rw [if_neg hrole, if_neg hrole]
      exact ⟨rfl, replied_self ..⟩

end Sys2Proof.Machine
end

section
/-! SUPPORT. The level code of a magnitude (R152), and the period start of the level monitor (R154, R155, R161) as a measurement
that may complete and the phase taken after it. -/

namespace Sys2Proof.Machine

/-! ## Level codes (R152) -/

theorem bitLength_le_iff (m k : Nat) : bitLength m ≤ k ↔ m < 2 ^ k := by
  unfold bitLength
  by_cases hm : m = 0
  · simp [hm]
  · rw [if_neg hm, Nat.succ_le_iff, Nat.log2_lt hm]

theorem levelCode_small {m : Nat} (h : m < 256) : levelCode m = 0 := by
  have hbits := (bitLength_le_iff m 8).2 h
  unfold levelCode
  omega

/-- A magnitude has at most 23 bits, so that no code is cut at 15. -/
theorem levelCode_eq_iff {m c : Nat} (hm : m ≤ 8388607) (hc : 1 ≤ c) :
    levelCode m = c ↔ 2 ^ (c + 7) ≤ m ∧ m < 2 ^ (c + 8) := by
  have hbits := (bitLength_le_iff m 23).2 (by omega)
  rw [← not_lt, ← bitLength_le_iff, ← bitLength_le_iff]
  unfold levelCode
  omega

/-! ## Supervisors (R161) -/

theorem sup_bad_iff (x : Sup) (c : Nat) :
    x.bad c = true ↔ if x.mode = .silence then c ≤ x.threshold else x.threshold ≤ c := by
  unfold Sup.bad
  cases x.mode <;> exact decide_eq_true_iff

theorem sup_leaves_iff (x : Sup) (c : Nat) :
    x.leaves c = true ↔ if x.mode = .silence then x.threshold + x.hyst ≤ c else c ≤ x.threshold - x.hyst := by
  unfold Sup.leaves
  cases x.mode <;> exact decide_eq_true_iff

theorem supAfter_disabled {x : Sup} (h : x.enable = false) (c : Nat) : supAfter x c = x := by simp [supAfter, h]

theorem supAfter_enabled {x : Sup} (h : x.enable ≠ false) (c : Nat) :
    supAfter x c =
      if x.alarm = true then if x.leaves c = true then { x with alarm := false, run := 0 } else x
      else if x.bad c = true then
        if x.run + 1 < x.count then { x with run := x.run + 1 } else { x with alarm := true, run := x.count }
      else { x with run := 0 } := by
  have hon : ¬ (!x.enable) = true := by simpa using h
  simp only [supAfter, if_neg hon, ← not_lt, ite_not]

/-! ## The two parts of a period start -/

variable {s : State}

theorem measurementDue_eq (m : Meter) : measurementDue m = decide (m.phase = .measuring ∧ m.periodsLeft ≤ 1) := by
  rw [Bool.decide_and]; rfl

theorem waitDue_iff (m : Meter) : waitDue m = true ↔ m.phase = .waiting ∧ m.mode = .periodic ∧ m.periodsLeft ≤ 1 := by
  simp [waitDue, and_assoc]

/-- The state after the measurement whose window ends at the event, if there is one. -/
def measured (s : State) : State := if measurementDue s.meter then completeMeasurement s else s

/-- A measurement begins at the event: at once in CONTINUOUS, and after the wait in PERIODIC (R155). -/
def begins (m : Meter) : Bool :=
  match m.mode with
  | .off => false
  | .continuous => measurementDue m || decide (m.phase ≠ .measuring)
  | .periodic => decide (m.phase = .stopped ∨ (m.phase = .waiting ∧ m.periodsLeft ≤ 1))

/-- The phase and the periods left after an event that begins no measurement (R155). -/
def phaseKept (m : Meter) : MeterPhase × Nat :=
  if m.mode = .off ∧ (measurementDue m = true ∨ m.phase = .waiting) then (.stopped, 0)
  else if measurementDue m = true then (.waiting, (m.repeats - 1) * 2 ^ (m.window - 5))
  else (m.phase, if m.phase = .stopped then m.periodsLeft else m.periodsLeft - 1)

theorem measured_meter (s : State) :
    (measured s).meter = { s.meter with
      measurements := if measurementDue s.meter then s.meter.measurements + 1 else s.meter.measurements } := by
  unfold measured
  split
  · exact raiseIf_meter ..
  · rfl

theorem measured_point (s : State) (n : PointIx) :
    (measured s).points[n] = { s.points[n] with
      code := if measurementDue s.meter then meanCode s n else s.points[n].code
      valid := s.points[n].valid || measurementDue s.meter } := by
  unfold measured
  cases measurementDue s.meter with
  | true =>
    rw [if_pos rfl, completeMeasurement, raiseIf_points, ofFn_get, if_pos rfl, Bool.or_true]
  | false => rw [Bool.or_false]; rfl

theorem measured_sup (s : State) (n : SupIx) :
    (measured s).sups[n] = if measurementDue s.meter then supAfter s.sups[n] (meanCode s s.sups[n].point) else s.sups[n] := by
  unfold measured
  cases measurementDue s.meter with
  | true => rw [if_pos rfl, completeMeasurement, raiseIf_sups, ofFn_get, if_pos rfl]
  | false => rfl

/-- The event as a measurement that may complete, and the phase that the settings stored call for. -/
theorem meterPeriod_eq (s : State) :
    meterPeriod s =
      if begins s.meter then beginMeasurement (measured s)
      else { measured s with
        meter := { (measured s).meter with phase := (phaseKept s.meter).1, periodsLeft := (phaseKept s.meter).2 } } := by
  have hdue := measurementDue_eq s.meter
  unfold meterPeriod measured begins phaseKept
  cases hphase : s.meter.phase with
  | stopped =>
    have hdue : measurementDue s.meter = false := by simp [hdue, hphase]
    cases hmode : s.meter.mode with
    | off =>
      have hkept : ({ s.meter with phase := .stopped } : Meter) = s.meter := by rw [← hphase]
      simp [hdue, hkept]
    | continuous | periodic => simp [hdue]
  | measuring =>
    by_cases hleft : s.meter.periodsLeft ≤ 1
    · have hdue : measurementDue s.meter = true := by simp [hdue, hphase, hleft]
      have hsettings : (completeMeasurement s).meter = { s.meter with measurements := s.meter.measurements + 1 } :=
        raiseIf_meter ..
      cases hmode : s.meter.mode with
      | off | continuous | periodic => simp [hdue, hleft, afterMeasurement, hsettings, hmode, stopMetering, beginWait]
    · have hdue : measurementDue s.meter = false := by simp [hdue, hleft]
      cases hmode : s.meter.mode with
      | off | continuous | periodic => simp [hdue, hleft, countPeriod, hphase]
  | waiting =>
    have hdue : measurementDue s.meter = false := by simp [hdue, hphase]
    cases hmode : s.meter.mode with
    | off => simp [hdue, stopMetering]
    | continuous => simp [hdue]
    | periodic => by_cases hleft : s.meter.periodsLeft ≤ 1 <;> simp [hdue, hleft, countPeriod, hphase]

/-- The settings and the window in use stand but where a measurement begins, which latches the window (R154). -/
theorem meterPeriod_meter (s : State) :
    (meterPeriod s).meter = { s.meter with
      phase := if begins s.meter then .measuring else (phaseKept s.meter).1
      windowInUse := if begins s.meter then s.meter.window else s.meter.windowInUse
      periodsLeft := if begins s.meter then 2 ^ (s.meter.window - 5) else (phaseKept s.meter).2
      measurements := if measurementDue s.meter then s.meter.measurements + 1 else s.meter.measurements } := by
  rw [meterPeriod_eq]
  cases begins s.meter <;> simp [beginMeasurement, measured_meter]

theorem meterPeriod_point (s : State) (n : PointIx) :
    (meterPeriod s).points[n] = { s.points[n] with
      acc := if begins s.meter then 0 else s.points[n].acc
      code := if measurementDue s.meter then meanCode s n else s.points[n].code
      valid := s.points[n].valid || measurementDue s.meter } := by
  rw [meterPeriod_eq]
  cases begins s.meter with
  | true => rw [if_pos rfl, beginMeasurement, ofFn_get, measured_point]; rfl
  | false => exact measured_point s n

theorem meterPeriod_sups (s : State) : (meterPeriod s).sups = (measured s).sups := by
  rw [meterPeriod_eq]
  split <;> rfl

/-- A supervisor is evaluated where a measurement completes and it is enabled. -/
theorem meterPeriod_sup (s : State) (n : SupIx) :
    (meterPeriod s).sups[n] =
      if measurementDue s.meter = false ∨ s.sups[n].enable = false then s.sups[n]
      else supAfter s.sups[n] (meanCode s s.sups[n].point) := by
  have hsup := measured_sup s n
  rw [← meterPeriod_sups] at hsup
  rw [hsup]
  by_cases hdue : measurementDue s.meter = false
  · rw [if_neg (by simp [hdue]), if_pos (.inl hdue)]
  · rw [if_pos (Bool.eq_true_of_not_eq_false hdue)]
    by_cases hoff : s.sups[n].enable = false
    · rw [if_pos (.inr hoff), supAfter_disabled hoff]
    · rw [if_neg (not_or.2 ⟨hdue, hoff⟩)]

/-- A supervisor of the eight changes its state, in both spellings. -/
theorem any_alarmChange_eq (f : SupIx → Bool) (s : State) :
    ((List.finRange 8).any fun n => f n != s.sups[n].alarm) = decide (∃ n : SupIx, f n ≠ s.sups[n].alarm) := by
  rw [Bool.eq_iff_iff]
  simp

/-- SUPERVISE is raised where a supervisor changes its state (R161). -/
theorem meterPeriod_raised (s : State) :
    Raised (flagIf (decide (∃ n : SupIx, (meterPeriod s).sups[n].alarm ≠ s.sups[n].alarm)) .supervise) s (meterPeriod s) := by
  have hports := meterPeriod_ports s
  have hsups := measured_sup s
  rw [← meterPeriod_sups] at hsups
  simp only [hsups]
  cases hdue : measurementDue s.meter with
  | true =>
    rw [hdue, if_pos rfl] at hports
    refine raised_of_ports fun j => ?_
    rw [hports, completeMeasurement_ports, any_alarmChange_eq]
    simp only [if_true]
  | false =>
    rw [hdue] at hports
    simpa [flagIf] using raised_zero hports

/-- A row that is a case of an event makes the whole event where its case holds, and leaves the state elsewhere (log 10). -/
theorem event_or_stands {c : Instr} {e : State} {b : Bool} {Holds : Prop} [Decidable Holds] (hevent : exec c s = .next e)
    (h : b = true ↔ Holds) :
    if Holds then exec c s = .next (if b then e else s) else (if b then e else s) = s := by
  by_cases hholds : Holds
  · rw [if_pos hholds, if_pos (h.2 hholds), hevent]
  · rw [if_neg hholds, if_neg (mt h.1 hholds)]

end Sys2Proof.Machine
end

section
/-! OBLIGATIONS. The period start of the level monitor. -/

namespace Sys2Proof.Machine

/-- Settles O48: the level code by its bit length, and the event by its two parts, which the two case rows make where they hold. -/
theorem meterPeriodStartTakesThePhase : Obligations.MeterPeriodStartTakesThePhase := by
  unfold Obligations.MeterPeriodStartTakesThePhase
  refine ⟨fun m hm => ⟨levelCode_small, fun c hc => levelCode_eq_iff hm hc⟩, fun s hr => ?_⟩
  have hperiod : exec .meterPeriodStart s = .next (meterPeriod s) := live_of_released _ hr
  have hmeter := meterPeriod_meter s
  refine ⟨⟨_, hperiod, meterPeriod_changes s, ?_, ?_, ?_, ?event⟩,
    ⟨_, live_of_released _ hr, event_or_stands hperiod (by rw [measurementDue_eq]; exact decide_eq_true_iff)⟩,
    ⟨_, live_of_released _ hr, event_or_stands hperiod (waitDue_iff s.meter)⟩⟩
  case event =>
    intro done code begun
    have hdone : done = measurementDue s.meter := (measurementDue_eq s.meter).symm
    have hbegun : begun = begins s.meter := by
      dsimp only [begun, done, begins]
      cases s.meter.mode with
      | off | periodic => rfl
      | continuous => exact congrArg (· || decide (s.meter.phase ≠ .measuring)) (measurementDue_eq s.meter).symm
    clear_value done begun
    subst hdone hbegun
    refine ⟨meterPeriod_point s, by rw [hmeter], ?phase, fun n => ?sup, meterPeriod_raised s⟩
    case phase =>
      rw [hmeter]
      cases begins s.meter with
      | true => exact ⟨rfl, rfl, rfl⟩
      | false =>
        refine ⟨rfl, ?_⟩
        unfold phaseKept
        by_cases hstop : s.meter.mode = .off ∧ (measurementDue s.meter = true ∨ s.meter.phase = .waiting)
        · rw [if_pos hstop, if_pos hstop]; exact ⟨rfl, rfl⟩
        · rw [if_neg hstop, if_neg hstop]
          cases measurementDue s.meter <;> exact ⟨rfl, rfl⟩
    case sup =>
      intro x c bad out
      rw [meterPeriod_sup]
      by_cases hstays : measurementDue s.meter = false ∨ s.sups[n].enable = false
      · rw [if_pos hstays, if_pos hstays]
      · rw [if_neg hstays, if_neg hstays, supAfter_enabled (not_or.1 hstays).2]
        simp only [sup_bad_iff, sup_leaves_iff]
        rfl
  all_goals rw [hmeter]

end Sys2Proof.Machine
end

section
/-! SUPPORT. SET CELL and SET GPO (R173, R176, R177): the cell stored with its restart, setting by setting, and the pin stored
with the active value that its selection gives. -/

namespace Sys2Proof.Machine

variable {s : State} {q : PortIx} {tag : Byte} {c : CellIx} {g : PinIx} {x y : Cell}
  {sh sl en i0 i1 i2 tt f ed w sel pol : Byte} {selection : GpoSel}

/-! ## The settings of SET CELL (R176) -/

/-- The filter as SET CELL leaves it. -/
def cellFilterStored (x : Cell) (sl f : Byte) : CellFilter :=
  if sl.getLsbD 5 then if f = 0 then .none else if f = 1 then .sync else .stable else x.filter

/-- A selected filter code of 0 to 2 passes its check. -/
theorem checked_cellFilter (hfilter : sl.getLsbD 5 = true → f.toNat < 3) :
    checked (sl.getLsbD 5) (filterOf f) x.filter = some (cellFilterStored x sl f) := by
  unfold cellFilterStored
  cases hsel : sl.getLsbD 5 with
  | false => rfl
  | true =>
    have hcode : f = 0 ∨ f = 1 ∨ f = 2 := by have := hfilter hsel; bv_omega
    rcases hcode with rfl | rfl | rfl <;> rfl

/-- A cell after the settings that SET CELL selects. -/
def cellSettings (x : Cell) (sl en tt f ed : Byte) (in0 in1 in2 : SignalIx) (watched : PartyIx) : Cell :=
  { x with
    enable := if sl.getLsbD 0 then decide (en ≠ 0) else x.enable
    in0 := in0
    in1 := in1
    in2 := in2
    table := if sl.getLsbD 4 then tt else x.table
    filter := cellFilterStored x sl f
    edge := if sl.getLsbD 6 then decide (ed ≠ 0) else x.edge
    watched := watched }

/-- A flag byte above 1 is stored as on, and adjusted (R176). -/
theorem flags_adjusted (sel0 sel6 held0 held6 : Bool) :
    ((store sel0 (flagStored en) held0).2 || (store sel6 (flagStored ed) held6).2) = true ↔
      (sel0 ∧ 1 < en.toNat) ∨ (sel6 ∧ 1 < ed.toNat) := by
  simp only [Bool.or_eq_true, store_adjusted, flagStored, decide_eq_true_eq, Nat.succ_le_iff]

/-! ## The restart (R173) -/

/-- A cell stored over another: its restart becomes pending where the configuration changes. -/
def cellRestarted (x y : Cell) : Cell := { y with restart := x.restart || y != x }

theorem cellRestarted_restart_iff (h : y.restart = x.restart) :
    (cellRestarted x y).restart = true ↔ x.restart = true ∨ { cellRestarted x y with restart := x.restart } ≠ x := by
  have hconfig : { cellRestarted x y with restart := x.restart } = y := by rw [← h]; rfl
  rw [hconfig, cellRestarted, Bool.or_eq_true, bne_iff_ne]

/-! ## SET CELL -/

/-- One cell stored. -/
def putCell (c : CellIx) (x : Cell) (s : State) : State := { s with cells := s.cells.set c x }

@[simp] theorem putCell_cell (c : CellIx) (x : Cell) (s : State) : (putCell c x s).cells[c] = x := set_get_self ..

theorem putCell_sameBut (c : CellIx) (x : Cell) (s : State) : SameBut c s.cells (putCell c x s).cells := sameBut_set _ _ _

/-- A payload of SET CELL that passes its checks. -/
theorem setCell_named (h0 : sl.getLsbD 1 = true → i0.toNat < 46) (h1 : sl.getLsbD 2 = true → i1.toNat < 46)
    (h2 : sl.getLsbD 3 = true → i2.toNat < 46) (hfilter : sl.getLsbD 5 = true → f.toNat < 3)
    (hwatched : sl.getLsbD 7 = true → w.toNat < 24) :
    ∃ (in0 in1 in2 : SignalIx) (watched : PartyIx) (new : Cell),
      (in0.val = if sl.getLsbD 1 then i0.toNat else s.cells[c].in0.val) ∧
      (in1.val = if sl.getLsbD 2 then i1.toNat else s.cells[c].in1.val) ∧
      (in2.val = if sl.getLsbD 3 then i2.toNat else s.cells[c].in2.val) ∧
      (watched.val = if sl.getLsbD 7 then w.toNat else s.cells[c].watched.val) ∧
      new = cellRestarted s.cells[c] (cellSettings s.cells[c] sl en tt f ed in0 in1 in2 watched) ∧
      setCell q tag [byte c.val, sh, sl, en, i0, i1, i2, tt, f, ed, w] s =
        if s.ports[q].role = .engineering then
          reply q tag (if (sl.getLsbD 0 ∧ 1 < en.toNat) ∨ (sl.getLsbD 6 ∧ 1 < ed.toNat) then .adjusted else .ok)
            (cellEntry new) (putCell c new s)
        else reply q tag .notAllowed (cellEntry s.cells[c]) s := by
  obtain ⟨in0, hin0, hval0⟩ := checked_fin (sl.getLsbD 1) i0.toNat s.cells[c].in0 h0
  obtain ⟨in1, hin1, hval1⟩ := checked_fin (sl.getLsbD 2) i1.toNat s.cells[c].in1 h1
  obtain ⟨in2, hin2, hval2⟩ := checked_fin (sl.getLsbD 3) i2.toNat s.cells[c].in2 h2
  obtain ⟨watched, hparty, hvalw⟩ := checked_fin (sl.getLsbD 7) w.toNat s.cells[c].watched hwatched
  have hcell : fin? 8 (byte c.val).toNat = some c := fin_some c (byte_toNat (by omega))
  have hadjusted := okOr_eq _ _
    (flags_adjusted (en := en) (ed := ed) (sl.getLsbD 0) (sl.getLsbD 6) s.cells[c].enable s.cells[c].edge)
  refine ⟨in0, in1, in2, watched, _, hval0, hval1, hval2, hvalw, rfl, ?_⟩
  simp (disch := omega) only [setCell, hcell, selected_lt, hin0, hin1, hin2, checked_cellFilter hfilter, hparty, hadjusted,
    store_flag]
  rfl

/-! ## The settings of SET GPO (R177) -/

/-- A selection code of 0 to 9 is defined. -/
theorem gpoSelOf_isSome (h : sel.toNat < 10) : (gpoSelOf sel).isSome = true := by
  unfold gpoSelOf
  split
  · rfl
  · rfl
  · next hlow hhigh =>
    have hcell : sel.toNat < 8 := by
      change sel.toNat ≠ 8 at hlow
      change sel.toNat ≠ 9 at hhigh
      omega
    rw [Option.isSome_map]; exact fin_isSome hcell

/-- A selection code below 8 names the cell of its number. -/
theorem gpoSelOf_cell_iff (h : gpoSelOf sel = some selection) (c : CellIx) : selection = .cell c ↔ sel.toNat = c.val := by
  unfold gpoSelOf at h
  split at h
  · cases h; simp; omega
  · cases h; simp; omega
  · obtain ⟨d, hd, rfl⟩ := Option.map_eq_some_iff.1 h
    rw [GpoSel.cell.injEq, Fin.ext_iff, fin_val hd]

/-- The selection codes 8 and 9 name the constants 0 and 1. -/
theorem gpoSelOf_const_iff (h : gpoSelOf sel = some selection) (b : Bool) : selection = .const b ↔ sel.toNat = 8 + b.toNat := by
  unfold gpoSelOf at h
  split at h
  · cases h; cases b <;> simp [*]
  · cases h; cases b <;> simp [*]
  · obtain ⟨d, hd, rfl⟩ := Option.map_eq_some_iff.1 h
    have := fin_lt hd
    simp; omega

/-- A checked selection is the one sent where it is selected, and the one held otherwise. -/
theorem checked_gpoSel (selects : Bool) (held : GpoSel) (h : selects = true → sel.toNat < 10) :
    ∃ selection, checked selects (gpoSelOf sel) held = some selection ∧
      (∀ c : CellIx, selection = .cell c ↔ if selects then sel.toNat = c.val else held = .cell c) ∧
      ∀ b : Bool, selection = .const b ↔ if selects then sel.toNat = 8 + b.toNat else held = .const b := by
  obtain ⟨selection, hchecked, hsent, hheld⟩ := checked_some selects (gpoSelOf sel) held fun hs => gpoSelOf_isSome (h hs)
  refine ⟨selection, hchecked, ?_⟩
  cases selects with
  | false => rw [hheld rfl]; exact ⟨fun _ => Iff.rfl, fun _ => Iff.rfl⟩
  | true => exact ⟨gpoSelOf_cell_iff (hsent rfl), gpoSelOf_const_iff (hsent rfl)⟩

/-- The polarity as SET GPO leaves it. -/
def polarityStored (x : Gpo) (sl pol : Byte) : Bool := if sl.getLsbD 1 then decide (pol = 1) else x.activeLow

/-- A selected polarity code of 0 or 1 passes its check. -/
theorem checked_polarity {x : Gpo} (hpol : sl.getLsbD 1 = true → pol.toNat < 2) :
    checked (sl.getLsbD 1) (polarityOf pol) x.activeLow = some (polarityStored x sl pol) := by
  unfold polarityStored
  cases hsel : sl.getLsbD 1 with
  | false => rfl
  | true =>
    have hcode : pol = 0 ∨ pol = 1 := by have := hpol hsel; bv_omega
    rcases hcode with rfl | rfl <;> rfl

/-- A pin after the settings that SET GPO selects. -/
def pinSettings (s : State) (g : PinIx) (sl pol : Byte) (selection : GpoSel) : Gpo :=
  { selection := selection
    activeLow := polarityStored s.gpos[g] sl pol
    active := if sl.getLsbD 0 then selectedValue s selection else s.gpos[g].active }

/-! ## SET GPO -/

/-- One pin stored. -/
def putPin (g : PinIx) (x : Gpo) (s : State) : State := { s with gpos := s.gpos.set g x }

@[simp] theorem putPin_pin (g : PinIx) (x : Gpo) (s : State) : (putPin g x s).gpos[g] = x := set_get_self ..

theorem putPin_sameBut (g : PinIx) (x : Gpo) (s : State) : SameBut g s.gpos (putPin g x s).gpos := sameBut_set _ _ _

/-- A payload of SET GPO that passes its checks. -/
theorem setGpo_named (hsel : sl.getLsbD 0 = true → sel.toNat < 10) (hpol : sl.getLsbD 1 = true → pol.toNat < 2) :
    ∃ (selection : GpoSel) (new : Gpo),
      (∀ c : CellIx, selection = .cell c ↔ if sl.getLsbD 0 then sel.toNat = c.val else s.gpos[g].selection = .cell c) ∧
      (∀ b : Bool, selection = .const b ↔
        if sl.getLsbD 0 then sel.toNat = 8 + b.toNat else s.gpos[g].selection = .const b) ∧
      new = pinSettings s g sl pol selection ∧
      setGpo q tag [byte g.val, sh, sl, sel, pol] s =
        if s.ports[q].role = .engineering then reply q tag .ok [gpoByte new] (putPin g new s)
        else reply q tag .notAllowed [gpoByte s.gpos[g]] s := by
  obtain ⟨selection, hselection, hcell, hconst⟩ := checked_gpoSel (sl.getLsbD 0) s.gpos[g].selection hsel
  have hpin : fin? 8 (byte g.val).toNat = some g := fin_some g (byte_toNat (by omega))
  refine ⟨selection, _, hcell, hconst, rfl, ?_⟩
  simp (disch := omega) only [setGpo, hpin, selected_lt, hselection, checked_polarity hpol]
  rfl

end Sys2Proof.Machine
end

section
/-! OBLIGATIONS. SET CELL and SET GPO. -/

namespace Sys2Proof.Machine

/-- Settles O49: the cell stored, setting by setting, with its restart, and the pin stored with the value of its selection. -/
theorem cellAndPinSettingsAreStored : Obligations.CellAndPinSettingsAreStored := by
  unfold Obligations.CellAndPinSettingsAreStored
  refine ⟨fun s q tag c sh sl en i0 i1 i2 tt f ed w hr h0 h1 h2 hfilter hwatched => ⟨_, live_of_released _ hr, ?cell⟩,
    fun s q tag g sh sl sel pol hr hsel hpol => ⟨_, live_of_released _ hr, ?pin⟩⟩
  case cell =>
    obtain ⟨in0, in1, in2, watched, new, hin0, hin1, hin2, hparty, hnew, hset⟩ := setCell_named (s := s) (q := q) (tag := tag)
      (c := c) (sh := sh) (en := en) (tt := tt) (ed := ed) h0 h1 h2 hfilter hwatched
    rw [hset]
    by_cases hrole : s.ports[q].role = .engineering
    · rw [if_pos hrole, if_pos hrole, reply_cells, putCell_cell]
      refine ⟨rfl, putCell_sameBut c _ s, ?enable, ?in0, ?in1, ?in2, ?table, ?filter, ?edge, ?watched, ?held, ?filtered,
        ?previous, ?output, ?restart, replied_of_ports rfl⟩
      all_goals rw [hnew]
      case in0 => exact hin0
      case in1 => exact hin1
      case in2 => exact hin2
      case watched => exact hparty
      case restart => exact cellRestarted_restart_iff rfl
      all_goals rfl
    · rw [if_neg hrole, if_neg hrole]
      exact ⟨rfl, replied_self ..⟩
  case pin =>
    obtain ⟨selection, new, hcell, hconst, hnew, hset⟩ := setGpo_named (s := s) (q := q) (tag := tag) (g := g) (sh := sh)
      hsel hpol
    rw [hset]
    by_cases hrole : s.ports[q].role = .engineering
    · rw [if_pos hrole, if_pos hrole, reply_gpos, putPin_pin, hnew]
      exact ⟨rfl, putPin_sameBut g _ s, hcell, hconst, rfl, rfl, replied_of_ports rfl⟩
    · rw [if_neg hrole, if_neg hrole]
      exact ⟨rfl, replied_self ..⟩

end Sys2Proof.Machine
end

section
/-! SUPPORT. What every command but RESET and RESET_RELEASE leaves on the ports and in the queue (R183, R185, R188): an arrival raises
flags alone, a control port command writes the slot of its own port, and READ EVENTS alone clears flags, those of its port. -/

namespace Sys2Proof.Machine

variable {c : Instr} {q : PortIx} {tag : Byte} {pl : List Byte} {s t : State}

/-! ## Arrivals -/

/-- An arrival leaves the queue, and the ports but for raised flags. -/
def Arrived (s t : State) : Prop := (∃ b : BitVec 11, Raised b s t) ∧ t.pending = s.pending

/-- An arrival that raises flags on all ports. -/
theorem arrived_raised {b : BitVec 11} (h : ∀ j : PortIx, t.ports[j] = { s.ports[j] with flags := s.ports[j].flags ||| b })
    (hpending : t.pending = s.pending) : Arrived s t := ⟨⟨b, raised_of_ports h⟩, hpending⟩

/-- An arrival that leaves the ports. -/
theorem arrived_ports (h : t.ports = s.ports) (hpending : t.pending = s.pending) : Arrived s t := ⟨⟨0, raised_zero h⟩, hpending⟩

theorem arrived_refl (s : State) : Arrived s s := arrived_ports rfl rfl

/-- A row that is a case of another event arrives as that event, or not at all (log 10). -/
theorem Arrived.of_case (h : Arrived s t) (p : Prop) [Decidable p] : Arrived s (if p then t else s) := by
  split
  · exact h
  · exact arrived_refl s

theorem applyCause_arrived (i : Instr) (kind : Kind) (froms : List PState) (next : PState) (ev : Option Event) (p : PartyIx) :
    Arrived s (applyCause kind froms next ev p (took i s)) :=
  arrived_raised (applyCause_ports kind froms next ev p (took i s)) (applyCause_pending ..)

theorem evaluateParty_arrived (p : PartyIx) : Arrived s (evaluateParty p s) := by
  by_cases hline : p.val < 16
  · exact arrived_raised (evaluateParty_ports_line p hline s) (evaluateParty_pending ..)
  · exact arrived_ports (evaluateParty_ports_link p hline s) (evaluateParty_pending ..)

theorem delayPeriod_arrived (k : Programme) : Arrived s (delayPeriod k s) :=
  arrived_raised (delayPeriod_ports k s) (delayPeriod_pending ..)

theorem playerPeriod_arrived (j : PlayerIx) : Arrived s (playerPeriod j s) :=
  arrived_raised (playerPeriod_ports j s) (playerPeriod_pending ..)

theorem meterPeriod_arrived : Arrived s (meterPeriod s) := by
  have hports := meterPeriod_ports s
  split at hports
  · exact arrived_raised (fun j => by rw [hports]; exact completeMeasurement_ports s j) (meterPeriod_pending s)
  · exact arrived_ports hports (meterPeriod_pending s)

theorem judge_arrived (edges : Nat) : Arrived s (judge edges s) := arrived_raised (judge_ports edges s) (judge_pending ..)

/-- Every command that comes on no port, but RESET and RESET_RELEASE, is a live arrival. -/
theorem arrival_arrives (s : State) (hport : encodeFrame c = none) (hreset : c ≠ .reset) (hrelease : ∀ x, c ≠ .resetRelease x) :
    ∃ e, exec c s = live s e ∧ Arrived s e := by
  cases c
  all_goals simp only [encodeFrame, reduceCtorEq] at hport
  case reset => exact absurd rfl hreset
  case resetRelease straps => exact absurd rfl (hrelease straps)
  case partyEvaluation p => exact ⟨_, rfl, evaluateParty_arrived p⟩
  case frameComputation x => exact ⟨_, rfl, arrived_raised (frameComputation_ports x s) (frameComputation_pending ..)⟩
  case delayPeriodStart k => exact ⟨_, rfl, delayPeriod_arrived k⟩
  case dumpJump k => exact ⟨_, rfl, (delayPeriod_arrived k).of_case _⟩
  case playerPeriodStart j => exact ⟨_, rfl, playerPeriod_arrived j⟩
  case stepComplete j => exact ⟨_, rfl, (playerPeriod_arrived j).of_case _⟩
  case abortFadeEnd j => exact ⟨_, rfl, (playerPeriod_arrived j).of_case _⟩
  case meterPeriodStart => exact ⟨_, rfl, meterPeriod_arrived⟩
  case measurementComplete => exact ⟨_, rfl, meterPeriod_arrived.of_case _⟩
  case waitingEnd => exact ⟨_, rfl, meterPeriod_arrived.of_case _⟩
  case lcPeriodEnd pins => exact ⟨_, rfl, arrived_raised (lcPeriod_ports pins s) (by simp)⟩
  case judgement edges => exact ⟨_, rfl, judge_arrived edges⟩
  case realign edges => exact ⟨_, rfl, (judge_arrived edges).of_case _⟩
  case ring | ringAbandon | answerFailure | loopDrop | clearingComplete | linkUp | linkDown =>
    exact ⟨_, rfl, applyCause_arrived ..⟩
  all_goals exact ⟨_, rfl, arrived_ports (by simp) (by simp)⟩

/-! ## Control port commands -/

/-- A control port command is NOP, READ EVENTS or SET EVENT MASK, or it is answered. -/
theorem port_cases (s : State) {bytes : List Byte} (hport : encodeFrame c = some (q, bytes)) :
    (∃ tag pl, c = .nop q tag pl) ∨ (∃ tag pl, c = .readEvents q tag pl) ∨ (∃ tag pl, c = .setEventMask q tag pl) ∨
      ∃ tag e, exec c s = live s e ∧ Answered q tag s e := by
  by_cases hnop : ∃ j tag pl, c = .nop j tag pl
  · obtain ⟨j, tag, pl, rfl⟩ := hnop; cases hport; exact .inl ⟨tag, pl, rfl⟩
  by_cases hread : ∃ j tag pl, c = .readEvents j tag pl
  · obtain ⟨j, tag, pl, rfl⟩ := hread; cases hport; exact .inr (.inl ⟨tag, pl, rfl⟩)
  by_cases hmask : ∃ j tag pl, c = .setEventMask j tag pl
  · obtain ⟨j, tag, pl, rfl⟩ := hmask; cases hport; exact .inr (.inr (.inl ⟨tag, pl, rfl⟩))
  push Not at hnop hread hmask
  exact .inr (.inr (.inr (port_answered c q bytes s hport hnop hread hmask)))

/-! ## Every command -/

/-- What a command but RESET and RESET_RELEASE leaves: the queue, every role, the slots of other ports than its own, and every flag
but those that a READ EVENTS of their port clears. -/
structure PortsStand (c : Instr) (s t : State) : Prop where
  pending : t.pending = s.pending
  role : ∀ j : PortIx, t.ports[j].role = s.ports[j].role
  slot : ∀ j : PortIx, (∀ bytes, encodeFrame c ≠ some (j, bytes)) → t.ports[j].slot = s.ports[j].slot
  flags : ∀ j : PortIx, (∀ tag pl, c ≠ .readEvents j tag pl) → ∃ b, t.ports[j].flags = s.ports[j].flags ||| b

theorem portsStand_refl (c : Instr) (s : State) : PortsStand c s s :=
  { pending := rfl, role := fun _ => rfl, slot := fun _ _ => rfl, flags := fun _ _ => ⟨0, by simp⟩ }

theorem Arrived.portsStand (h : Arrived s t) (c : Instr) : PortsStand c s t := by
  obtain ⟨⟨b, hraised⟩, hpending⟩ := h
  exact { pending := hpending, role := hraised.role, slot := fun j _ => hraised.slot j, flags := fun j _ => ⟨b, hraised.flags j⟩ }

theorem Answered.portsStand {bytes : List Byte} (h : Answered q tag s t) (hport : encodeFrame c = some (q, bytes)) :
    PortsStand c s t := by
  obtain ⟨r, body, s', b, rfl, hports, hpending, -, -⟩ := h
  have hreplied : Replied q tag r body b s (reply q tag r body s') := replied_of_raised hports
  exact
    { pending := hpending
      role := hreplied.role
      slot := fun j hj => hreplied.others j fun hq => hj bytes (hq ▸ hport)
      flags := fun j _ => ⟨b, hreplied.flags j⟩ }

/-- The ports after one was replaced and the reply put in its slot. -/
theorem reply_setPort (q : PortIx) (x : Port) (tag : Byte) (r : Result) (body : List Byte) (s : State) (j : PortIx) :
    (reply q tag r body { s with ports := s.ports.set q x }).ports[j] =
      if j = q then { x with slot := { tag := tag, result := r, body := body } } else s.ports[j] := by
  rw [reply_ports]
  split
  · dsimp only; rw [set_get_self]
  · exact set_get_other _ _ _ _ ‹_›

/-- A command that stores in its own port, its role left and its flags left but by READ EVENTS. -/
theorem setPort_portsStand {x : Port} {r : Result} {body bytes : List Byte} (hport : encodeFrame c = some (q, bytes))
    (hrole : x.role = s.ports[q].role) (hflags : (∀ tag pl, c ≠ .readEvents q tag pl) → x.flags = s.ports[q].flags) :
    PortsStand c s (reply q tag r body { s with ports := s.ports.set q x }) := by
  refine { pending := rfl, role := fun j => ?role, slot := fun j hj => ?slot, flags := fun j hj => ⟨0#11, ?flags⟩ }
  case role =>
    rw [reply_setPort]
    split
    · subst j; exact hrole
    · rfl
  case slot => rw [reply_setPort, if_neg fun hq : j = q => hj bytes (hq ▸ hport)]
  case flags =>
    rw [reply_setPort, BitVec.or_zero]
    split
    · subst j; exact hflags hj
    · rfl

/-- READ EVENTS stores in its own port, and may clear its flags. -/
theorem readEvents_portsStand : PortsStand (.readEvents q tag pl) s (readEvents q tag pl s) := by
  unfold readEvents
  split
  · exact setPort_portsStand rfl rfl fun h => absurd rfl (h tag pl)
  · exact answered_self.portsStand rfl

/-- SET EVENT MASK stores the mask of its own port. -/
theorem setEventMask_portsStand : PortsStand (.setEventMask q tag pl) s (setEventMask q tag pl s) := by
  unfold setEventMask
  split
  · exact setPort_portsStand rfl rfl fun _ => rfl
  · exact answered_self.portsStand rfl

/-- Every command but RESET and RESET_RELEASE is live, and leaves the queue and the ports but for its own reply and flags. -/
theorem exec_portsStand (s : State) (hreset : c ≠ .reset) (hrelease : ∀ x, c ≠ .resetRelease x) :
    ∃ e, exec c s = live s e ∧ PortsStand c s e := by
  cases hport : encodeFrame c with
  | none =>
    obtain ⟨e, hexec, harrived⟩ := arrival_arrives s hport hreset hrelease
    exact ⟨e, hexec, harrived.portsStand c⟩
  | some frame =>
    obtain ⟨q, bytes⟩ := frame
    obtain ⟨tag, pl, rfl⟩ | ⟨tag, pl, rfl⟩ | ⟨tag, pl, rfl⟩ | ⟨tag, e, hexec, hanswered⟩ := port_cases s hport
    · exact ⟨s, rfl, portsStand_refl _ s⟩
    · exact ⟨_, rfl, readEvents_portsStand⟩
    · exact ⟨_, rfl, setEventMask_portsStand⟩
    · exact ⟨e, hexec, hanswered.portsStand hport⟩

/-- What such a command leaves, from its outcome. -/
theorem exec_next_portsStand (hreset : c ≠ .reset) (hrelease : ∀ x, c ≠ .resetRelease x) (h : exec c s = .next t) :
    PortsStand c s t := by
  obtain ⟨e, hexec, hstand⟩ := exec_portsStand s hreset hrelease
  rw [hexec, live_next] at h
  split at h
  · exact h ▸ portsStand_refl c s
  · exact h ▸ hstand

/-! ## Reads without operand -/

/-- A read without operand that carries none. -/
theorem plainRead_nil (body : State → List Byte) : plainRead body q tag [] s = reply q tag .ok (body s) s := rfl

/-- A read without operand that carries one. -/
theorem plainRead_of_ne_nil (body : State → List Byte) (hpl : pl ≠ []) : plainRead body q tag pl s = reply q tag .illegal [] s := by
  unfold plainRead; rw [if_neg (by simpa using hpl)]

/-! ## RESET_RELEASE -/

/-- The ports after RESET_RELEASE: each with the role of its straps (R185). -/
theorem resetRelease_ports {straps : Vector Straps 3} (h : exec (.resetRelease straps) s = .next t) (j : PortIx) :
    t.ports[j] = { s.ports[j] with role := roleOf straps[j] } := by
  cases h; exact ofFn_get _ j

/-- The code of a role (R198). -/
theorem role_code (r : Role) :
    r.code = match r with
      | .engineering => 0
      | .studio k => if k = 0 then 1 else 2
      | .screener => 3 := by
  rcases r with _ | k | _
  · rfl
  · revert k; decide
  · rfl

end Sys2Proof.Machine
end

section
/-! OBLIGATIONS. Roles, slots and flags over every command. -/

namespace Sys2Proof.Machine

/-- Settles O5: the straps give the roles, every other command leaves them, and READ STATUS lists them. -/
theorem rolesAreFixedAtRelease : Obligations.RolesAreFixedAtRelease := by
  unfold Obligations.RolesAreFixedAtRelease
  refine ⟨fun straps s => ⟨_, rfl, fun q => ?straps, rfl⟩, fun c s t hreset hrelease h q => ?stand,
    fun s q tag hr => ⟨_, live_of_released _ hr, fun j => ?status⟩⟩
  case straps =>
    rw [resetRelease_ports rfl q]
    rcases straps[q] with ⟨_ | _, _ | _⟩ <;> rfl
  case stand => exact (exec_next_portsStand hreset hrelease h).role q
  case status =>
    rw [plainRead_nil, (replied_self ..).slot]
    have hbyte : (statusBody q s)[4 + j.val]? = some s.ports[j].role.code := by fin_cases j <;> rfl
    exact hbyte.trans (congrArg some (role_code _))

/-- Settles O12: RESET_RELEASE stores roles alone, and every other command writes the slot of its own port alone. -/
theorem otherSlotsStand : Obligations.OtherSlotsStand := by
  unfold Obligations.OtherSlotsStand
  intro c s t hreset h j hj
  by_cases hrelease : ∃ x, c = .resetRelease x
  · obtain ⟨x, rfl⟩ := hrelease
    rw [resetRelease_ports h]
  · exact (exec_next_portsStand hreset (fun x hx => hrelease ⟨x, hx⟩) h).slot j hj

/-- Settles O13: RESET_RELEASE stores roles alone, and every other command only adds flags to a port whose events it does not
read. -/
theorem flagsFallOnlyByReading : Obligations.FlagsFallOnlyByReading := by
  unfold Obligations.FlagsFallOnlyByReading
  intro c s t j hreset hread h e hflag
  by_cases hrelease : ∃ x, c = .resetRelease x
  · obtain ⟨x, rfl⟩ := hrelease
    rw [resetRelease_ports h]; exact hflag
  · obtain ⟨b, hflags⟩ := (exec_next_portsStand hreset (fun x hx => hrelease ⟨x, hx⟩) h).flags j hread
    rw [hflags, BitVec.getLsbD_or, hflag, Bool.true_or]

/-- Settles O2: RESET and RESET_RELEASE keep the queue, and every other command is live and keeps it. -/
theorem everyCommandCompletes : Obligations.EveryCommandCompletes := by
  unfold Obligations.EveryCommandCompletes
  refine ⟨fun c s => ?completes, fun c s hr hreset hrelease => ?inReset⟩
  case completes =>
    by_cases hreset : c = .reset
    · subst hreset; exact ⟨_, rfl, rfl⟩
    by_cases hrelease : ∃ x, c = .resetRelease x
    · obtain ⟨x, rfl⟩ := hrelease; exact ⟨_, rfl, rfl⟩
    obtain ⟨e, hexec, -⟩ := exec_portsStand s hreset fun x hx => hrelease ⟨x, hx⟩
    exact ⟨_, hexec, (exec_next_portsStand hreset (fun x hx => hrelease ⟨x, hx⟩) hexec).pending⟩
  case inReset =>
    obtain ⟨e, hexec, -⟩ := exec_portsStand s hreset hrelease
    rw [hexec, live, if_pos hr]

end Sys2Proof.Machine
end

section
/-! SUPPORT. A command that changes nothing but the slot of its port (R184). -/

namespace Sys2Proof.Machine

variable {q : PortIx} {tag : Byte} {pl : List Byte} {s t : State}

/-- Nothing has changed but the slot of one port. -/
def SlotOnly (q : PortIx) (s t : State) : Prop :=
  t = { s with ports := t.ports } ∧ SameBut q s.ports t.ports ∧ t.ports[q] = { s.ports[q] with slot := t.ports[q].slot }

theorem slotOnly_refl (q : PortIx) (s : State) : SlotOnly q s s := ⟨rfl, fun _ _ => rfl, rfl⟩

theorem reply_slotOnly (q : PortIx) (tag : Byte) (r : Result) (body : List Byte) (s : State) :
    SlotOnly q s (reply q tag r body s) := by
  refine ⟨rfl, fun j hj => ?_, ?_⟩
  · rw [reply_ports, if_neg hj]
  · rw [reply_ports, if_pos rfl]

/-- A command that is answered another result than OK and ADJUSTED has done nothing beside its reply. -/
theorem Answered.slotOnly (h : Answered q tag s t) (hok : t.ports[q].slot.result ≠ .ok)
    (hadjusted : t.ports[q].slot.result ≠ .adjusted) : SlotOnly q s t := by
  obtain ⟨r, body, s', b, rfl, hports, -, -, hself⟩ := h
  rw [(replied_of_raised hports).slot] at hok hadjusted
  obtain rfl | hr | hr := hself
  · exact reply_slotOnly ..
  · exact absurd hr hok
  · exact absurd hr hadjusted

/-- READ EVENTS clears flags only where it is answered OK (R190). -/
theorem readEvents_slotOnly (hok : (readEvents q tag pl s).ports[q].slot.result ≠ .ok) : SlotOnly q s (readEvents q tag pl s) := by
  unfold readEvents at hok ⊢
  split
  · rw [if_pos ‹_›, reply_ports, if_pos rfl] at hok
    exact absurd rfl hok
  · exact reply_slotOnly ..

/-- SET EVENT MASK stores a mask only where it is answered OK or ADJUSTED (R189). -/
theorem setEventMask_slotOnly (hok : (setEventMask q tag pl s).ports[q].slot.result ≠ .ok)
    (hadjusted : (setEventMask q tag pl s).ports[q].slot.result ≠ .adjusted) : SlotOnly q s (setEventMask q tag pl s) := by
  unfold setEventMask at hok hadjusted ⊢
  split at hok
  · rw [reply_ports, if_pos rfl] at hok hadjusted
    exact ((okOr_cases _).elim hok hadjusted).elim
  · exact reply_slotOnly ..

end Sys2Proof.Machine
end

section
/-! OBLIGATIONS. Commands that are refused or find their condition met. -/

namespace Sys2Proof.Machine

/-- Settles O53: NOP changes nothing, and each other command that is not answered OK or ADJUSTED replies over the state itself. -/
theorem refusedCommandsChangeNothing : Obligations.RefusedCommandsChangeNothing := by
  unfold Obligations.RefusedCommandsChangeNothing
  intro c q bytes s t hport hr h hok hadjusted
  change SlotOnly q s t
  obtain ⟨tag, pl, rfl⟩ | ⟨tag, pl, rfl⟩ | ⟨tag, pl, rfl⟩ | ⟨tag, e, hexec, hanswered⟩ := port_cases s hport
  · cases (live_of_released _ hr).symm.trans h
    exact slotOnly_refl q s
  · cases (live_of_released _ hr).symm.trans h
    exact readEvents_slotOnly hok
  · cases (live_of_released _ hr).symm.trans h
    exact setEventMask_slotOnly hok hadjusted
  · cases (live_of_released e hr).symm.trans (hexec.symm.trans h)
    exact hanswered.slotOnly hok hadjusted

end Sys2Proof.Machine
end

section
/-! SUPPORT. Event words and masks (R188 to R190, R198): an event word as two bytes, the enables as stored, and ATTN. -/

namespace Sys2Proof.Machine

variable {q : PortIx} {tag : Byte} {pl : List Byte} {s : State}

/-- Flags or enables as a two-byte field (R198). -/
theorem bytes16_events (x : BitVec 11) : bytes16 x.toNat = [(x.setWidth 16).extractLsb' 8 8, (x.setWidth 16).extractLsb' 0 8] := by
  have hwidth : (x.setWidth 16).toNat = x.toNat := BitVec.toNat_setWidth_of_le (by decide)
  have hhigh : byte (x.toNat / 256) = (x.setWidth 16).extractLsb' 8 8 := by
    apply BitVec.eq_of_toNat_eq
    simp [byte, BitVec.extractLsb'_toNat, hwidth, Nat.shiftRight_eq_div_pow]
  have hlow : byte x.toNat = (x.setWidth 16).extractLsb' 0 8 := by
    apply BitVec.eq_of_toNat_eq
    simp [byte, BitVec.extractLsb'_toNat, hwidth]
  rw [bytes16, hhigh, hlow]

/-- Two bytes, most significant first, are the bits of one word. -/
theorem be16_append (h l : Byte) : be16 h l = (h ++ l : BitVec 16).toNat := by
  rw [BitVec.toNat_append, ← Nat.shiftLeft_add_eq_or_of_lt l.isLt, Nat.shiftLeft_eq]
  rfl

/-- The eleven enables of a mask sent (R189). -/
theorem enables_sent (h l : Byte) : BitVec.ofNat 11 (be16 h l) = (h ++ l : BitVec 16).setWidth 11 := by
  rw [be16_append]
  apply BitVec.eq_of_toNat_eq
  simp

/-- The enables as stored, as the reply carries them: the five bits that name no event as 0 (R189). -/
theorem enables_bytes (h l : Byte) : bytes16 (BitVec.ofNat 11 (be16 h l)).toNat = [h &&& 7, l] := by
  have hhigh : byte ((be16 h l) % 2048 / 256) = h &&& 7 := by
    apply BitVec.eq_of_toNat_eq
    have hlowBits : (h &&& 7).toNat = h.toNat % 8 := Nat.and_two_pow_sub_one_eq_mod h.toNat 3
    have := l.isLt
    simp only [byte, be16, BitVec.toNat_ofNat, Nat.reducePow, hlowBits]
    omega
  have hlow : byte (be16 h l % 2048) = l := by
    apply BitVec.eq_of_toNat_eq
    have := l.isLt
    simp only [byte, be16, BitVec.toNat_ofNat, Nat.reducePow]
    omega
  have hmask : (BitVec.ofNat 11 (be16 h l)).toNat = be16 h l % 2048 := BitVec.toNat_ofNat ..
  rw [bytes16, hmask, hhigh, hlow]

/-- A mask sent is adjusted where it has one of the five bits that name no event (R189). -/
theorem enables_adjusted_iff (h l : Byte) : 2048 ≤ be16 h l ↔ 8 ≤ h.toNat := by
  have := l.isLt
  unfold be16
  omega

/-- Every one of the eleven bits is the flag of an event (R198). -/
theorem event_of_bit {i : Nat} (hi : i < 11) : ∃ e : Event, e.bit = i := by
  interval_cases i
  exacts [⟨.party, rfl⟩, ⟨.ring, rfl⟩, ⟨.hangup, rfl⟩, ⟨.flash, rfl⟩, ⟨.link, rfl⟩, ⟨.delay, rfl⟩, ⟨.tone, rfl⟩,
    ⟨.supervise, rfl⟩, ⟨.clock, rfl⟩, ⟨.clip, rfl⟩, ⟨.gpi, rfl⟩]

/-- ATTN is low where some event is flagged and enabled (R189). -/
theorem attn_iff (s : State) (q : PortIx) :
    attn s q = true ↔ ∃ e : Event, s.ports[q].flags.getLsbD e.bit = true ∧ s.ports[q].mask.getLsbD e.bit = true := by
  have hand (i : Nat) : (s.ports[q].flags &&& s.ports[q].mask).getLsbD i = true ↔
      s.ports[q].flags.getLsbD i = true ∧ s.ports[q].mask.getLsbD i = true := by
    rw [BitVec.getLsbD_and, Bool.and_eq_true]
  unfold attn
  rw [bne_iff_ne]
  constructor
  · intro hne
    by_contra hnone
    push Not at hnone
    refine hne (BitVec.eq_of_getLsbD_eq fun i hi => ?_)
    obtain ⟨e, rfl⟩ := event_of_bit hi
    have hclear : (s.ports[q].flags &&& s.ports[q].mask).getLsbD e.bit = false :=
      Bool.eq_false_iff.2 fun hbit => hnone e ((hand _).1 hbit).1 ((hand _).1 hbit).2
    rw [hclear]
    exact BitVec.getLsbD_zero.symm
  · rintro ⟨e, hflag, hmask⟩ hzero
    have hbit := (hand e.bit).2 ⟨hflag, hmask⟩
    rw [hzero] at hbit
    exact Bool.false_ne_true (BitVec.getLsbD_zero.symm.trans hbit)

/-- Without a flag ATTN is released. -/
theorem attn_of_flags_zero (h : s.ports[q].flags = 0) : attn s q = false := by
  refine Bool.eq_false_iff.2 fun hlow => ?_
  obtain ⟨e, hflag, -⟩ := (attn_iff s q).1 hlow
  rw [h] at hflag
  exact Bool.false_ne_true (BitVec.getLsbD_zero.symm.trans hflag)

/-- A port after RESET (R191). -/
theorem reset_port (q : PortIx) : State.reset.ports[q] = Port.atReset := replicate_get _ q

/-! ## READ EVENTS and SET EVENT MASK -/

/-- READ EVENTS without payload. -/
theorem readEvents_nil :
    readEvents q tag [] s =
      reply q tag .ok (bytes16 s.ports[q].flags.toNat ++ bytes16 s.ports[q].mask.toNat)
        { s with ports := s.ports.set q { s.ports[q] with flags := 0 } } := rfl

/-- READ EVENTS with a payload. -/
theorem readEvents_of_ne_nil (hpl : pl ≠ []) : readEvents q tag pl s = reply q tag .illegal [] s := by
  unfold readEvents; rw [if_neg (by simpa using hpl)]

/-- SET EVENT MASK with a payload of another length. -/
theorem setEventMask_of_length (hpl : pl.length ≠ 2) : setEventMask q tag pl s = reply q tag .illegal [] s := by
  unfold setEventMask
  split
  · exact absurd rfl hpl
  · rfl

end Sys2Proof.Machine
end

section
/-! OBLIGATIONS. READ EVENTS and SET EVENT MASK. -/

namespace Sys2Proof.Machine

/-- Settles O10: without payload the flags are reported and cleared at this port alone, with one nothing is done. -/
theorem readEventsReportsAndClears : Obligations.ReadEventsReportsAndClears := by
  unfold Obligations.ReadEventsReportsAndClears
  refine fun s q tag hr => ⟨⟨_, live_of_released _ hr, rfl, fun j hj => ?others, ?attn, ?port⟩, fun pl hpl => ?illegal⟩
  case others => rw [readEvents_nil, reply_setPort, if_neg hj]
  case attn =>
    refine attn_of_flags_zero ?_
    rw [readEvents_nil, reply_setPort, if_pos rfl]
  case port => rw [readEvents_nil, reply_setPort, if_pos rfl, bytes16_events, bytes16_events]; rfl
  case illegal =>
    exact ⟨_, (live_of_released _ hr).trans (congrArg _ (readEvents_of_ne_nil hpl)), rfl, replied_self ..⟩

/-- Settles O11: ATTN bit by bit, RESET, and the mask stored at this port alone. -/
theorem setEventMaskStoresTheEnables : Obligations.SetEventMaskStoresTheEnables := by
  unfold Obligations.SetEventMaskStoresTheEnables
  refine ⟨attn_iff, fun s => ⟨_, rfl, fun q => ⟨?mask, attn_of_flags_zero ?flags⟩⟩, fun s q tag hr =>
    ⟨fun h l => ⟨_, live_of_released _ hr, rfl, fun j hj => ?others, ?port⟩, fun pl hpl => ?illegal⟩⟩
  case mask => exact congrArg Port.mask (reset_port q)
  case flags => exact congrArg Port.flags (reset_port q)
  case others => rw [setEventMask, reply_setPort, if_neg hj]
  case port =>
    rw [setEventMask, reply_setPort, if_pos rfl, okOr_eq _ _ (decide_eq_true_iff.trans (enables_adjusted_iff h l)), enables_bytes,
      bytes16_events, enables_sent]
    rfl
  case illegal =>
    exact ⟨_, (live_of_released _ hr).trans (congrArg _ (setEventMask_of_length hpl)), rfl, replied_self ..⟩

end Sys2Proof.Machine
end

section
/-! SUPPORT. Transactions (R180 to R183): the bytes and bits a port shifts out, and the frames of commands decoded. -/

namespace Sys2Proof

/-- Fewer than eight bits hold no whole byte (R180). -/
theorem wholeBytes_short {bits : List Bool} (h : bits.length < 8) : wholeBytes bits = [] := wholeBytes_bits [] bits h

/-- A number that names no command is answered UNKNOWN (R182, R198). -/
theorem commandOf_unknown {n : Byte} (q : PortIx) (tag : Byte) (pl : List Byte) (hn : unknownNumber n = true) :
    commandOf q n tag pl = .unknownCommand q n tag pl := by
  unfold commandOf
  split
  case h_43 => rfl
  all_goals simp [unknownNumber, *] at hn

/-- A frame with its length byte is cut where the length is over 124 or more than the bytes after it (R181). -/
theorem cutFrame_cons_iff (n tag len : Byte) (rest : List Byte) :
    cutFrame (n :: tag :: len :: rest) = true ↔ ¬(len.toNat ≤ 124 ∧ len.toNat ≤ rest.length) := by
  rw [cutFrame, Bool.not_eq_true', ← Bool.decide_and, decide_eq_false_iff_not]

/-- Bytes of which the frame is cut (R181). -/
theorem decodeFrame_cut {bytes : List Byte} (q : PortIx) (h : cutFrame bytes = true) :
    decodeFrame q bytes = some (.frameAnswer q bytes) := by
  match bytes, h with
  | [_], _ => rfl
  | [_, _], _ => rfl
  | n :: tag :: len :: rest, h => exact if_neg ((cutFrame_cons_iff n tag len rest).1 h)

/-- A well-formed control port command is a FRAME answer to a cut frame, or the command of the whole frame that encodes it. -/
theorem encodeFrame_cases {i : Instr} {q : PortIx} {bytes : List Byte} (hwf : i.wellFormed = true)
    (hport : encodeFrame i = some (q, bytes)) :
    (i = .frameAnswer q bytes ∧ cutFrame bytes = true) ∨
      ∃ n tag pl, bytes = wholeFrame n tag pl ∧ payloadFits pl = true ∧ commandOf q n tag pl = i := by
  cases i
  all_goals cases hport
  case frameAnswer => exact .inl ⟨rfl, hwf⟩
  case unknownCommand n tag pl =>
    obtain ⟨hn, hpl⟩ := (Bool.and_eq_true _ _).mp hwf
    exact .inr ⟨n, tag, pl, rfl, hpl, commandOf_unknown _ tag pl hn⟩
  all_goals exact .inr ⟨_, _, _, rfl, hwf, rfl⟩

end Sys2Proof

namespace Sys2Proof.Machine

/-- The bytes of a slot, then zeros (R183). -/
theorem shiftedOut_eq (s : State) (q : PortIx) (n : Nat) :
    shiftedOut s q n = s.ports[q].slot.bytes.take n ++ List.replicate (n - s.ports[q].slot.bytes.length) 0 := by
  unfold shiftedOut
  rw [List.take_append, List.take_replicate, Nat.min_eq_left (Nat.sub_le ..)]

/-- Byte i of a transaction that goes on past it. -/
theorem shiftedOut_getD (s : State) (q : PortIx) {n i : Nat} (h : i < n) :
    (shiftedOut s q n).getD i 0 = s.ports[q].slot.bytes.getD i 0 := by
  simp only [shiftedOut, List.getD_eq_getElem?_getD, List.getElem?_take_of_lt h, List.getElem?_append, List.getElem?_replicate]
  split
  · rfl
  · rw [if_pos (by omega), List.getElem?_eq_none (by omega)]; rfl

/-- Bit b of byte i, most significant bit first (R180). -/
theorem shiftedBit_eq (s : State) (q : PortIx) (i : Nat) (b : Fin 8) :
    shiftedBit s q (8 * i + b.val) = (s.ports[q].slot.bytes.getD i 0).getLsbD (7 - b.val) := by
  have hbyte : (8 * i + b.val) / 8 = i := by omega
  have hbit : (8 * i + b.val) % 8 = b.val := by omega
  rw [shiftedBit, hbyte, hbit, shiftedOut_getD s q (by omega)]

/-- The tag of a FRAME answer (R181). -/
theorem frameAnswer_tag (bytes : List Byte) : bytes.getD 1 0 = if bytes.length < 2 then 0 else bytes.getD 1 0 := by
  split
  · exact List.getD_eq_default _ _ (by omega)
  · rfl

/-- Bytes that are no whole frame (R181). -/
theorem cutFrame_of_short {bytes : List Byte} (hne : bytes ≠ [])
    (h : bytes.length < 3 ∨ 124 < (bytes.getD 2 0).toNat ∨ bytes.length < 3 + (bytes.getD 2 0).toNat) : cutFrame bytes = true := by
  match bytes, hne, h with
  | [_], _, _ => rfl
  | [_, _], _, _ => rfl
  | n :: tag :: len :: rest, _, h =>
    simp only [List.length_cons, List.getD_cons_succ, List.getD_cons_zero] at h
    rw [cutFrame_cons_iff]
    omega

end Sys2Proof.Machine
end

section
/-! OBLIGATIONS. Transactions, and the round trip of their frames. -/

namespace Sys2Proof.Machine

/-- Settles O6: no command, what is shifted out, the frame check, NOP and UNKNOWN. -/
theorem transactionsFrameCheckNopAndUnknown : Obligations.TransactionsFrameCheckNopAndUnknown := by
  unfold Obligations.TransactionsFrameCheckNopAndUnknown
  refine ⟨fun q bits => ⟨rfl, fun h => ?short⟩, fun s q n => ⟨rfl, ?shifted⟩, fun q bytes hne h => ?cut,
    fun q n tag len rest hmax hlen => ?whole, fun s q bytes hr => ⟨_, live_of_released _ hr, rfl, ?frame⟩,
    fun s q tag pl => ⟨rfl, ?nop⟩, fun q n tag pl hn => commandOf_unknown q tag pl hn,
    fun s q n tag pl hr => ⟨_, live_of_released _ hr, rfl, replied_self ..⟩⟩
  case short => exact congrArg (decodeFrame q) (wholeBytes_short h)
  case shifted =>
    intro x result bytes
    have hbytes : s.ports[q].slot.bytes = bytes := rfl
    refine ⟨fun i b hn => ?_, hbytes ▸ shiftedOut_eq s q n⟩
    subst hn
    refine congrArg some ((shiftedBit_eq s q i b).trans ?_)
    rw [hbytes]
    split
    · rw [List.getD_eq_getElem]
    · rw [List.getD_eq_default _ _ (by omega)]; simp
  case cut => exact decodeFrame_cut q (cutFrame_of_short hne h)
  case whole => exact if_pos ⟨hmax, hlen⟩
  case frame => rw [← frameAnswer_tag]; exact replied_self ..
  case nop => exact live_next.2 (by split <;> rfl)

/-- Settles O7: a FRAME answer is decoded from its cut bytes, every other command from its whole frame, whose bits give its bytes. -/
theorem decodeOfEncodeIsTheCommand : Obligations.DecodeOfEncodeIsTheCommand := by
  unfold Obligations.DecodeOfEncodeIsTheCommand
  intro i q bytes hwf hport
  have hbits (h : decodeFrame q bytes = some i) (tail : List Bool) (ht : tail.length < 8) :
      decodeTransaction q false (bytes.flatMap bitsOfByte ++ tail) = some i :=
    (congrArg (decodeFrame q) (wholeBytes_bits bytes tail ht)).trans h
  obtain ⟨rfl, hcut⟩ | ⟨n, tag, pl, rfl, hpl, rfl⟩ := encodeFrame_cases hwf hport
  · have hdecode := decodeFrame_cut q hcut
    exact ⟨hdecode, fun h => absurd rfl (h q bytes), hbits hdecode⟩
  · have hdecode (extra : List Byte) := decodeFrame_whole q n tag pl extra hpl
    have hframe := hdecode []
    rw [List.append_nil] at hframe
    exact ⟨hframe, fun _ => hdecode, hbits hframe⟩

end Sys2Proof.Machine
end

section
/-! SUPPORT. The reads without operand (R33, R106, R132, R149, R164, R165, R178, R187): their answers, and the entries of their bodies. -/

namespace Sys2Proof.Machine

variable {q : PortIx} {tag : Byte} {pl : List Byte} {s : State}

/-! ## Their answers -/

/-- A read without operand whose body has n bytes: OK with it, or ILLEGAL where it carries a payload. -/
theorem plainRead_answer {i : Instr} {body : State → List Byte} {n : Nat} (hexec : exec i s = live s (plainRead body q tag pl s))
    (hr : s.inReset = false) (hlen : (body s).length = n) :
    ∃ t, exec i s = .next t ∧ t = { s with ports := t.ports } ∧ (body s).length = n ∧
      if pl = [] then Replied q tag .ok (body s) 0 s t else Replied q tag .illegal [] 0 s t := by
  refine ⟨_, hexec.trans (live_of_released _ hr), plainRead_changes q tag pl s body, hlen, ?_⟩
  split
  · subst pl; rw [plainRead_nil]; exact replied_self ..
  · rw [plainRead_of_ne_nil body ‹_›]; exact replied_self ..

/-! ## Sets as bits (R198) -/

/-- The field of a set has no bit beyond its items. -/
theorem maskNat_lt {n : Nat} (m : Mask n) : maskNat m < 2 ^ n := by
  have hall : ∑ i : Fin n, 2 ^ i.val < 2 ^ n := by
    rw [Fin.sum_univ_eq_sum_range fun i => 2 ^ i]
    exact Nat.geomSum_lt le_rfl fun i hi => Finset.mem_range.1 hi
  rw [maskNat, ← Fin.sum_univ_def]
  refine lt_of_le_of_lt (Finset.sum_le_sum fun i _ => ?_) hall
  split
  · exact le_rfl
  · exact Nat.zero_le _

/-- Bit i of the field of a set, within its items and beyond. -/
theorem maskNat_testBit {n : Nat} (m : Mask n) (i : Nat) : (maskNat m).testBit i = if h : i < n then m[i] else false := by
  split
  · next h => exact mask_testBit m ⟨i, h⟩
  · next h => exact Nat.testBit_lt_two_pow (lt_of_lt_of_le (maskNat_lt m) (Nat.pow_le_pow_right (by omega) (by omega)))

/-- A set of 24 as a three-byte field: bit p is item p. -/
theorem bytes24_mask (m : Mask 24) (p : PartyIx) :
    (byte (maskNat m / 65536) ++ byte (maskNat m / 256) ++ byte (maskNat m) : BitVec 24).getLsbD p.val = m[p] := by
  have hfield : be24 (byte (maskNat m / 65536)) (byte (maskNat m / 256)) (byte (maskNat m)) = maskNat m := by
    have := maskNat_lt m
    simp only [be24, byte, BitVec.toNat_ofNat]
    omega
  rw [← destSent_bit, hfield, maskOf, ofFn_get, mask_testBit]

/-! ## Flags and codes as numbers -/

/-- A flag of a reply as a number. -/
theorem flag_eq (x : Bool) : flag x = BitVec.ofNat 8 (if x then 1 else 0) := by cases x <;> rfl

/-- A flag within a byte as a number. -/
theorem toNat_eq_ite (x : Bool) : x.toNat = if x then 1 else 0 := by cases x <;> rfl

/-- A count over a list as a sum of ones. -/
theorem countP_eq_sum {α : Type} (p : α → Bool) (l : List α) : l.countP p = (l.map fun x => if p x then 1 else 0).sum := by
  induction l with
  | nil => rfl
  | cons x l ih => rw [List.countP_cons, List.map_cons, List.sum_cons, ih, Nat.add_comm]

/-- The serving count, party by party (R107). -/
theorem servingCount_eq (s : State) (k : KeyIx) :
    servingCount s k = ∑ p : PartyIx, if s.foldBacks[p].inService = some k then 1 else 0 := by
  rw [servingCount, countP_eq_sum, Fin.sum_univ_def]
  simp only [beq_iff_eq]

/-! ## The bytes of the points of READ METERS (R164, R200) -/

/-- The byte of a point: its code with its flags above it. -/
theorem pointByte_eq (x : Point) :
    pointByte x = BitVec.ofNat 8 (x.code % 16 + (if x.valid then 16 else 0) + if x.clip then 32 else 0) := by
  simp only [pointByte, byte, toNat_eq_ite, mul_ite, mul_one, mul_zero]

theorem metersBody_point (s : State) (n : PointIx) : (metersBody s)[9 + n.val]? = some (pointByte s.points[n]) := by
  have hplace : 9 + n.val - (meterBody s).length = n.val := by rw [len_meter]; omega
  rw [metersBody, List.getElem?_append_right (by rw [len_meter]; omega), hplace]
  simp

/-! ## The parts of the body of READ LOGIC (R178, R200) -/

/-- The body in its parts: eight pins, eight cells of seven bytes, eight outputs, six bytes of signals. -/
theorem logicBody_parts (s : State) :
    ∃ pins cells outputs : List Byte, logicBody s = pins ++ (cells ++ (outputs ++ (bytes16 (signalField s / 4294967296) ++
        bytes32 (signalField s)))) ∧
      pins = (List.finRange 8).map (fun n : PinIx => gpiByte s.gpis[n]) ∧ pins.length = 8 ∧
      cells = (List.finRange 8).flatMap (fun c : CellIx => cellEntry s.cells[c]) ∧ cells.length = 56 ∧
      outputs = (List.finRange 8).map (fun g : PinIx => gpoByte s.gpos[g]) ∧ outputs.length = 8 :=
  ⟨_, _, _, by simp only [logicBody, List.append_assoc], rfl, rfl, rfl, len_flat _ fun _ => len_cell _, rfl, rfl⟩

theorem logicBody_gpi (s : State) (n : PinIx) : (logicBody s)[n.val]? = some (gpiByte s.gpis[n]) := by
  obtain ⟨pins, cells, outputs, hbody, hpins, hlen, -⟩ := logicBody_parts s
  rw [hbody, List.getElem?_append_left (by omega), hpins]
  simp

theorem logicBody_cell (s : State) (c : CellIx) : ((logicBody s).drop (8 + 7 * c.val)).take 7 = cellEntry s.cells[c] := by
  obtain ⟨pins, cells, outputs, hbody, -, hpins, hcells, hlen, -⟩ := logicBody_parts s
  have hplace : 8 + 7 * c.val = pins.length + 7 * c.val := by omega
  rw [hbody, hplace, List.drop_length_add_append, List.drop_append_of_le_length (by omega),
    List.take_append_of_le_length (by rw [List.length_drop]; omega), hcells]
  exact flat_get (fun c : CellIx => cellEntry s.cells[c]) (fun _ => len_cell _) c

theorem logicBody_gpo (s : State) (g : PinIx) : (logicBody s)[64 + g.val]? = some (gpoByte s.gpos[g]) := by
  obtain ⟨pins, cells, outputs, hbody, -, hpins, -, hcells, houtputs, hlen⟩ := logicBody_parts s
  have hplace : 64 + g.val - pins.length - cells.length = g.val := by omega
  rw [hbody, List.getElem?_append_right (by omega), List.getElem?_append_right (by omega), hplace,
    List.getElem?_append_left (by omega), houtputs]
  simp

/-- Byte j of the field of signals. -/
theorem logicBody_field (s : State) (j : Nat) :
    (logicBody s).getD (72 + j) 0 = (bytes16 (signalField s / 4294967296) ++ bytes32 (signalField s)).getD j 0 := by
  obtain ⟨pins, cells, outputs, hbody, -, hpins, -, hcells, -, houtputs⟩ := logicBody_parts s
  have hplace : 72 + j - pins.length - cells.length - outputs.length = j := by omega
  rw [hbody, List.getD_append_right _ _ _ _ (by omega), List.getD_append_right _ _ _ _ (by omega),
    List.getD_append_right _ _ _ _ (by omega), hplace]

/-- Byte k of the field of signals, from its end. -/
theorem logicBody_signalByte (s : State) (k : Fin 6) : (logicBody s).getD (77 - k.val) 0 = byte (signalField s / 256 ^ k.val) := by
  have hplace : 77 - k.val = 72 + (5 - k.val) := by omega
  rw [hplace, logicBody_field]
  fin_cases k
  · exact congrArg byte (Nat.div_one _).symm
  · rfl
  · rfl
  · rfl
  · rfl
  · exact congrArg byte (Nat.div_div_eq_div_mul ..)

/-- The signals sent as a set. -/
theorem signalField_eq (s : State) : signalField s = maskNat (Vector.ofFn fun n : SignalIx => reported n && signal s 0 n) := by
  unfold signalField maskNat
  simp only [ofFn_get]

/-- Signal i stands in bit i mod 8 of the byte i div 8 from the end; bits 46 and 47 name none (R178, R200). -/
theorem logicBody_signal (s : State) (i : Fin 48) :
    ((logicBody s).getD (77 - i.val / 8) 0).getLsbD (i.val % 8) =
      if h : i.val < 46 then reported ⟨i.val, h⟩ && signal s 0 ⟨i.val, h⟩ else false := by
  have hbyte := logicBody_signalByte s ⟨i.val / 8, by omega⟩
  have hbit : i.val % 8 + 8 * (i.val / 8) = i.val := Nat.mod_add_div ..
  have hpow : 256 ^ (i.val / 8) = 2 ^ (8 * (i.val / 8)) := (pow_mul 2 8 _).symm
  dsimp only at hbyte
  rw [hbyte, byte, BitVec.getLsbD_ofNat, decide_eq_true (Nat.mod_lt _ (by decide)), Bool.true_and, hpow, Nat.testBit_div_two_pow,
    hbit, signalField_eq, maskNat_testBit]
  split
  · exact ofFn_get _ (⟨i.val, by assumption⟩ : SignalIx)
  · rfl

end Sys2Proof.Machine
end

section
/-! OBLIGATIONS. The reads without operand. -/

namespace Sys2Proof.Machine

/-- Settles O8: the answers read by read, the entries in their order, and each entry byte for byte. -/
theorem plainReadsAnswer : Obligations.PlainReadsAnswer := by
  unfold Obligations.PlainReadsAnswer
  intro b one two four trig
  have htrig (x : Option CellIx) : triggerCode x = trig x := by cases x <;> rfl
  refine ⟨?answers, fun s => ⟨fun q => rfl, flat_get (keyEntry s) fun _ => rfl, flat_get (playerEntry s) fun _ => rfl, rfl,
      fun d => ⟨?delayEntry, rfl⟩, flat_get (supEntry s) fun _ => rfl, List.take_left' (len_meter s), fun n => ?point,
      fun n hn => ?gpi, logicBody_cell s, logicBody_gpo s, logicBody_signal s⟩,
    fun s k => ?key, fun s j => ?player, fun s k => ?delay, fun s n => ?sup, fun s => ?metering, fun x => ?cell, fun g => ?gpo,
    mask_testBit, mask_testBit⟩
  case answers =>
    simp only [List.forall_mem_cons]
    exact ⟨fun s q _ _ hr => plainRead_answer rfl hr (len_status q s), fun s _ _ _ hr => plainRead_answer rfl hr (len_table s),
      fun s _ _ _ hr => plainRead_answer rfl hr (len_keys s), fun s _ _ _ hr => plainRead_answer rfl hr (len_players s),
      fun s _ _ _ hr => plainRead_answer rfl hr (len_delays s), fun s _ _ _ hr => plainRead_answer rfl hr (len_meters s),
      fun s _ _ _ hr => plainRead_answer rfl hr (len_sups s), fun s _ _ _ hr => plainRead_answer rfl hr (len_logic s), nofun⟩
  case delayEntry => fin_cases d <;> rfl
  case point => rw [metersBody_point, pointByte_eq]
  case gpi =>
    rw [logicBody_gpi, gpiByte, Nat.mod_eq_of_lt (by omega), toNat_eq_ite]
    rfl
  case key =>
    refine ⟨_, _, _, bytes24_mask s.keys[k].dest, ?_⟩
    rw [keyEntry, htrig, servingCount_eq]
    simp only [latchByte, toNat_eq_ite]
    rfl
  case player =>
    intro x
    rw [playerEntry, htrig, flag_eq, flag_eq]
    rfl
  case delay =>
    intro d
    simp only [delayEntry, htrig, flag_eq]
    rfl
  case sup =>
    intro x
    rw [supEntry, flag_eq, flag_eq]
    rfl
  case metering =>
    intro x
    have hphase : flag (x.phase == .measuring) = if x.phase = .measuring then 1 else 0 := by
      unfold flag; simp only [beq_iff_eq]
    rw [← hphase]
    rfl
  case cell =>
    have hfilter : x.filter.code.toNat = match x.filter with | .none => 0 | .sync => 1 | .stable => 2 := by
      cases x.filter <;> rfl
    simp only [cellEntry, hfilter, toNat_eq_ite]
    rfl
  case gpo =>
    have hselection : g.selection.code.toNat = match g.selection with | .cell c => c.val | .const x => 8 + one x := by
      rcases g.selection with c | _ | _
      · exact byte_toNat (by omega)
      · rfl
      · rfl
    rw [gpoByte, hselection]
    simp only [toNat_eq_ite]
    rfl

end Sys2Proof.Machine
end

section
/-! SUPPORT. The Clock Unit (R194 to R196): the rows of the table of judgements, the judgement event, and SET CLOCK. -/

namespace Sys2Proof.Machine

variable {s : State} {q : PortIx} {tag : Byte} {c : Clock}

/-! ## The rows of the table of judgements (R194, R195) -/

/-- The Clock Unit with the fade-ins of the period just ended over (R195). -/
def Clock.fadesOver (c : Clock) : Clock := { c with fadeInOwed := false, firstLocked := false }

theorem judged_freeRun_lost (h : c.lock = .freeRun) : judged c false = (c.fadesOver, false) := by
  simp [judged, Clock.fadesOver, h]

theorem judged_freeRun_valid (h : c.lock = .freeRun) :
    judged c true = ({ c.fadesOver with lock := .relock, settle := 2 ^ c.exponent }, false) := by
  simp [judged, Clock.fadesOver, h]

theorem judged_relock_counts (h : c.lock = .relock) (hcount : 1 < c.settle) :
    judged c true = ({ c.fadesOver with lock := .relock, settle := c.settle - 1 }, false) := by
  simp [judged, Clock.fadesOver, h, Nat.not_le.2 hcount]

theorem judged_relock_final (h : c.lock = .relock) (hcount : c.settle ≤ 1) :
    judged c true = ({ c.fadesOver with lock := .locked, settle := 0, firstLocked := true }, true) := by
  simp [judged, Clock.fadesOver, h, hcount]

theorem judged_relock_lost (h : c.lock = .relock) :
    judged c false = ({ c.fadesOver with lock := .freeRun, settle := 0, fadeInOwed := decide (c.settle ≤ 1) }, true) := by
  simp [judged, Clock.fadesOver, h]

theorem judged_locked_valid (h : c.lock = .locked) : judged c true = (c.fadesOver, false) := by
  simp [judged, Clock.fadesOver, h]

theorem judged_locked_lost (h : c.lock = .locked) : judged c false = ({ c.fadesOver with lock := .freeRun }, true) := by
  simp [judged, Clock.fadesOver, h]

/-- CLOCK is raised at each entry into LOCKED and into FREE_RUN, and at nothing else. -/
theorem judged_raises (c : Clock) (valid : Bool) :
    (judged c valid).2 = decide ((judged c valid).1.lock ≠ c.lock ∧ (judged c valid).1.lock ≠ .relock) := by
  cases hlock : c.lock with
  | freeRun =>
    cases valid with
    | false => rw [judged_freeRun_lost hlock]; simp [Clock.fadesOver, hlock]
    | true => rw [judged_freeRun_valid hlock]; simp
  | relock =>
    cases valid with
    | false => rw [judged_relock_lost hlock]; simp
    | true =>
      rcases Nat.lt_or_ge 1 c.settle with hcount | hcount
      · rw [judged_relock_counts hlock hcount]; simp
      · rw [judged_relock_final hlock hcount]; simp
  | locked =>
    cases valid with
    | false => rw [judged_locked_lost hlock]; simp
    | true => rw [judged_locked_valid hlock]; simp [Clock.fadesOver, hlock]

/-! ## The judgement event (R194) -/

theorem judge_clock (edges : Nat) (s : State) : (judge edges s).clock = (judged s.clock (edgesValid edges)).1 := raiseIf_clock ..

theorem judge_changes (edges : Nat) (s : State) :
    judge edges s = { s with clock := (judge edges s).clock, ports := (judge edges s).ports } := by
  unfold judge
  cases (judged s.clock (edgesValid edges)).2 <;> rfl

theorem judge_raised (edges : Nat) (s : State) :
    Raised (flagIf (decide ((judge edges s).clock.lock ≠ s.clock.lock ∧ (judge edges s).clock.lock ≠ .relock)) .clock) s
      (judge edges s) := by
  rw [judge_clock, ← judged_raises]
  exact raised_of_ports (judge_ports edges s)

/-- The realign is due with a valid judgement at the end of the final RELOCK period. -/
theorem realignDue_iff (edges : Nat) :
    realignDue c edges = true ↔ c.lock = .relock ∧ c.settle ≤ 1 ∧ 31 ≤ edges ∧ edges ≤ 33 := by
  simp only [realignDue, edgesValid, Bool.and_eq_true, beq_iff_eq, decide_eq_true_iff, and_assoc]

/-! ## SET CLOCK (R196) -/

theorem exponent_byte (x : Byte) :
    byte (clamp 8 12 x.toNat).1 = if x.toNat < 8 then 8 else if 12 < x.toNat then 12 else x := by
  unfold clamp
  split
  · next hlow => rw [Nat.min_eq_right (by omega), Nat.max_eq_left hlow.le]; rfl
  · split
    · next hhigh => rw [Nat.min_eq_left hhigh.le]; rfl
    · next hlow hhigh => rw [Nat.min_eq_right (by omega), Nat.max_eq_right (by omega), byte_self]

theorem exponent_result (x : Byte) :
    okOr (clamp 8 12 x.toNat).2 = if 8 ≤ x.toNat ∧ x.toNat ≤ 12 then .ok else .adjusted := by
  have hadjusted : (clamp 8 12 x.toNat).2 = true ↔ ¬ (8 ≤ x.toNat ∧ x.toNat ≤ 12) := by
    rw [clamp, decide_eq_true_iff]
    omega
  rw [okOr_eq _ _ hadjusted, ite_not]

/-- SET CLOCK with a payload of one byte. -/
theorem setClock_byte (x : Byte) :
    setClock q tag [x] s =
      if s.ports[q].role = .engineering then
        reply q tag (if 8 ≤ x.toNat ∧ x.toNat ≤ 12 then .ok else .adjusted)
          [if x.toNat < 8 then 8 else if 12 < x.toNat then 12 else x, s.clock.lock.code]
          { s with clock := { s.clock with exponent := max 8 (min 12 x.toNat) } }
      else reply q tag .notAllowed [] s := by
  rw [← exponent_result, ← exponent_byte]
  rfl

end Sys2Proof.Machine
end

section
/-! OBLIGATIONS. The judgement of the reference and SET CLOCK. -/

namespace Sys2Proof.Machine

/-- Settles O51: the lock state row by row of the table of R194, and REALIGN as the row it is a case of. -/
theorem judgementMovesTheLockState : Obligations.JudgementMovesTheLockState := by
  unfold Obligations.JudgementMovesTheLockState
  intro s n hr
  have hjudge : exec (.judgement n) s = .next (judge n s) := live_of_released _ hr
  refine ⟨⟨_, hjudge, judge_changes n s, ?clock, judge_raised n s⟩,
    ⟨_, live_of_released _ hr, event_or_stands hjudge (realignDue_iff n)⟩⟩
  intro valid stood
  have hvalid : edgesValid n = valid := rfl
  rw [judge_clock, hvalid]
  clear_value valid
  cases hlock : s.clock.lock with
  | freeRun =>
    cases valid with
    | false => exact congrArg Prod.fst (judged_freeRun_lost hlock)
    | true => exact congrArg Prod.fst (judged_freeRun_valid hlock)
  | relock =>
    cases valid with
    | false => exact congrArg Prod.fst (judged_relock_lost hlock)
    | true =>
      dsimp only
      split
      · next hcount => exact congrArg Prod.fst (judged_relock_counts hlock hcount)
      · next hcount => exact congrArg Prod.fst (judged_relock_final hlock (Nat.not_lt.1 hcount))
  | locked =>
    cases valid with
    | false => exact congrArg Prod.fst (judged_locked_lost hlock)
    | true => exact congrArg Prod.fst (judged_locked_valid hlock)

/-- Settles O52: one byte by its range and the role, another length by the length check, and the entry into RELOCK by its row of the
table of R194. -/
theorem setClockStoresTheExponent : Obligations.SetClockStoresTheExponent := by
  unfold Obligations.SetClockStoresTheExponent
  refine ⟨fun s q tag x hr => ⟨_, live_of_released _ hr, ?stored⟩, fun s q tag pl hr hlen => setClock_checks.length rfl hr hlen,
    fun s n hr hlock hlow hhigh => ⟨_, live_of_released _ hr, ?entered⟩⟩
  case stored =>
    rw [setClock_byte]
    by_cases hrole : s.ports[q].role = .engineering
    · rw [if_pos hrole, if_pos hrole]
      exact ⟨rfl, replied_of_ports rfl⟩
    · rw [if_neg hrole, if_neg hrole]
      exact ⟨rfl, replied_self ..⟩
  case entered =>
    have hvalid : edgesValid n = true := decide_eq_true ⟨hlow, hhigh⟩
    rw [judge_clock, hvalid, judged_freeRun_valid hlock]
    exact ⟨rfl, rfl⟩

end Sys2Proof.Machine
end

section
/-! OBLIGATIONS. The front of the queue. -/

namespace Sys2Proof.Machine

/-- A step takes the front command off the queue and runs it on the state with the rest (log 1). -/
theorem step_of_pending_cons {s : State} {c : Instr} {rest : List Instr} (h : s.pending = c :: rest) :
    step s = exec c { s with pending := rest } := by
  simp only [step, h]

/-- A step with an empty queue stands (log 2). -/
theorem step_of_pending_nil {s : State} (h : s.pending = []) : step s = .next s := by
  simp only [step, h]

/-- Settles O1: one case for each shape of the queue; a command put at the front and taken off again leaves the queue as it was. -/
theorem stepTakesTheFrontCommand : Obligations.StepTakesTheFrontCommand := by
  unfold Obligations.StepTakesTheFrontCommand
  refine ⟨fun c s => ?front, fun s hempty => step_of_pending_nil hempty⟩
  case front =>
    have hfront : ({ s with pending := c :: s.pending } : State).pending = c :: s.pending := rfl
    exact step_of_pending_cons hfront

end Sys2Proof.Machine
end
